-- ==== Sys2Proof/Word.lean ====
section
/-! DEFINITION. The block's bit-vector types: byte, command word, identifier, register index, host data lane. -/

namespace Sys2Proof

/-- Eight bits: a family code, one byte of an identifier, an 8-bit host register. -/
abbrev Byte := BitVec 8

/-- One 16-bit command word (30_encoding.md R80). -/
abbrev CommandWord := BitVec 16

/-- The eight bytes of an identifier or of the candidate buffer, byte 0 (the family code) first
(00_scope.md R10, R12; 10_state.md R22). -/
abbrev Ident := Vector Byte 8

/-- A host register index, 0..15 (10_state.md R32). -/
abbrev RegIndex := BitVec 4

/-- A value on the host interface, as wide as the widest register, CAND. Every register's own value sits in the
low bits (DESIGN CHOICE, log entries 4 and 5). -/
abbrev HostValue := BitVec 64

end Sys2Proof
end

