-- ==== Sys2Proof/Syntax.lean ====
section
/-! DEFINITION. The commands (one constructor per row of spec/opcode_table.json), the fields of a command word, and
what decoding a word can answer. -/

namespace Sys2Proof

/-- The three commands of the block (00_scope.md R3; 30_encoding.md R81, R89). -/
inductive Instr where
  /-- RSTATE, the source's `reset()`: clear the search state (40_state_commands.md R102). -/
  | rstate
  /-- TARGET f, the source's `target(familyCode)`: seed the search with family code `f`, any of the 256 byte
  values (40_state_commands.md R106; 30_encoding.md R82). -/
  | target (f : Byte)
  /-- SEARCH, the source's `search()`: run one ROM discovery walk (41_search.md R120). -/
  | search
  deriving DecidableEq, Repr

/-- The three fields of a command word (30_encoding.md R80). -/
structure CommandFields where
  /-- `ARG`, bits 15:8. -/
  arg : Byte
  /-- `RSV`, bits 7:4. -/
  rsv : BitVec 4
  /-- `OP`, bits 3:0. -/
  op : BitVec 4
  deriving DecidableEq, Repr

/-- Why a word is malformed (30_encoding.md R83, R90). The block itself only knows that it is: the reason is the
model's name for the test that failed (log entry 18). -/
inductive Malformed where
  /-- `RSV ≠ 0`. -/
  | reservedField
  /-- OP = 0x1 or 0x3 with `ARG ≠ 0`. -/
  | argument
  /-- OP = 0x0 or 0x4..0xF. -/
  | reservedOp
  deriving DecidableEq, Repr

/-- What `decode` answers: a command, or `Malformed` (30_encoding.md R85). -/
inductive Command where
  | valid (i : Instr)
  | malformed (why : Malformed)
  deriving DecidableEq, Repr

end Sys2Proof
end

