-- ==== Sys2Proof/WellFormed.lean ====
section
/-! DEFINITION. Which fields make a well-formed command word (30_encoding.md R81, R83). A term of `Instr` has no
ill-formed value, since its one operand is a byte and all 256 bytes are legal (R82): what can be ill-formed is a
word, so the checks are about its fields. -/

namespace Sys2Proof

/-- `RSV` must be 0 in every command (30_encoding.md R83). -/
def CommandFields.rsvZero (c : CommandFields) : Bool := c.rsv == 0#4

/-- `OP` is one of the three assigned values (30_encoding.md R81). -/
def CommandFields.opAssigned (c : CommandFields) : Bool := c.op == 1#4 || c.op == 2#4 || c.op == 3#4

/-- `ARG` must be 0 in RSTATE and SEARCH; TARGET takes any (30_encoding.md R82, R83). -/
def CommandFields.argAllowed (c : CommandFields) : Bool := c.op == 2#4 || c.arg == 0#8

/-- The fields of some command: the complement of 30_encoding.md R90's list of malformed words. -/
def CommandFields.wellFormed (c : CommandFields) : Bool := c.rsvZero && c.opAssigned && c.argAllowed

end Sys2Proof
end

