-- ==== Sys2Proof/Decode.lean ====
section
/-! DEFINITION. Decoding a command word, total on all 65536 words, and the encoder after it (30_encoding.md). -/

namespace Sys2Proof

/-- The fields of a word: ARG = w[15:8], RSV = w[7:4], OP = w[3:0] (30_encoding.md R80). -/
def splitWord (w : CommandWord) : CommandFields :=
  { arg := w.extractLsb' 8 8, rsv := w.extractLsb' 4 4, op := w.extractLsb' 0 4 }

/-- The decode function, test by test as 30_encoding.md R85 writes it. -/
def decode (w : CommandWord) : Command :=
  if (splitWord w).rsv ≠ 0#4 then .malformed .reservedField
  else if (splitWord w).op = 1#4 then
    if (splitWord w).arg = 0#8 then .valid .rstate else .malformed .argument
  else if (splitWord w).op = 2#4 then .valid (.target (splitWord w).arg)
  else if (splitWord w).op = 3#4 then
    if (splitWord w).arg = 0#8 then .valid .search else .malformed .argument
  else .malformed .reservedOp

/-- The word is malformed, for whichever reason (30_encoding.md R85). -/
def Command.isMalformed : Command → Bool
  | .valid _ => false
  | .malformed _ => true

/-- The fields that carry an instruction (30_encoding.md R81, R82, R89). -/
def Instr.fields : Instr → CommandFields
  | .rstate => { arg := 0x00#8, rsv := 0#4, op := 1#4 }
  | .target f => { arg := f, rsv := 0#4, op := 2#4 }
  | .search => { arg := 0x00#8, rsv := 0#4, op := 3#4 }

/-- An instruction is well formed when the fields that carry it are. -/
def Instr.wellFormed (i : Instr) : Bool := i.fields.wellFormed

/-- A word from its fields, ARG most significant (30_encoding.md R80). -/
def joinWord (c : CommandFields) : CommandWord := c.arg ++ c.rsv ++ c.op

/-- The word of an instruction: `RSTATE` = 0x0001, `SEARCH` = 0x0003, `TARGET f` = `(f << 8) | 0x0002`
(30_encoding.md R89, R91). -/
def encode (i : Instr) : CommandWord := joinWord i.fields

/-- What the decoder reads from the instruction whose bits are `w`, of which the table gives the low `nbits` (every
row of the table is one 16-bit word, 30_encoding.md R84). A number of more than 16 bits is no command. -/
def decodeTableWord (nbits w : Nat) : Option Instr :=
  if w % 2 ^ nbits < 2 ^ 16 then
    match decode (BitVec.ofNat 16 (w % 2 ^ nbits)) with
    | .valid i => some i
    | .malformed _ => none
  else none

end Sys2Proof
end

