-- ==== Sys2Proof/Config.lean ====
section
/-! DEFINITION. The block's fixed parameters (00_scope.md R10), its register indices (10_state.md R32) and the
protocol constants of the source (30_encoding.md R95). The spec leaves no value of the block free: its one open
parameter, the BitChannel's behaviour `bus` (00_scope.md R11), reaches the machine as inputs held in State. -/

namespace Sys2Proof.Config

/-- `ID_BITS`: an identifier has 64 bit positions, numbered 1..64. -/
abbrev idBits : Nat := 64

/-- `ID_BYTES`. -/
abbrev idBytes : Nat := 8

/-- `FAMILY_BITS`: positions 1..8 are the family code. -/
abbrev familyBits : Nat := 8

/-- `TARGET_LD`: the lastDiscrepancy that TARGET sets. -/
def targetLd : BitVec 7 := 64#7

/-- `SEARCH_CMD`: the normal-search command byte. -/
def searchCmd : Byte := 0xF0#8

/-- ROM-select, recorded by 30_encoding.md R95. The block never emits it. -/
def romSelectCmd : Byte := 0x55#8

/-- ROM-skip, recorded by 30_encoding.md R95. The block never emits it. -/
def romSkipCmd : Byte := 0xCC#8

/-- Index of the command register CMD. -/
def cmdIndex : RegIndex := 0#4

/-- Index of STATUS. -/
def statusIndex : RegIndex := 1#4

/-- Index of CAND. -/
def candIndex : RegIndex := 2#4

/-- Index of LDR. -/
def ldrIndex : RegIndex := 3#4

/-- Index of LFDR. -/
def lfdrIndex : RegIndex := 4#4

/-- The largest number of transactions one SEARCH performs: one reset, eight writes and three for each position
(41_search.md R137). -/
abbrev longestSearch : Nat := 201

end Sys2Proof.Config
end

