-- ==== Sys2Proof/Machine/State.lean ====
section
/-! DEFINITION. The state of the block and what can reach it from outside, and the state after power-on reset. -/

namespace Sys2Proof.Machine

/-- The phases of the search machine (10_state.md R35). -/
inductive Phase where
  /-- IDLE: no SEARCH is running. -/
  | idle
  /-- BUSRST: the bus reset is outstanding. -/
  | busRst
  /-- CMDBIT: the write of bit `cmdIdx` of the search command byte is outstanding. -/
  | cmdBit
  /-- RDID: the read of the identifier bit at `pos` is outstanding. -/
  | rdId
  /-- RDCMP: the read of the complement bit at `pos` is outstanding. -/
  | rdCmp
  /-- WRDIR: the write of the resolved bit at `pos` is outstanding. -/
  | wrDir
  deriving DecidableEq, Repr

/-- The outcome classes of a SEARCH (60_exceptions.md R170), a model-level ghost value (00_scope.md R16). -/
inductive SearchOutcome where
  | found
  | exhausted
  | busEmptyOrFaulted
  | busContentionAnomaly
  | degenerateResult
  deriving DecidableEq, Repr

/-- One completed bus transaction with the value it carried (20_memory.md R60). -/
inductive Transaction where
  | reset (presence : Bool)
  | write (b : Bool)
  | read (b : Bool)
  deriving DecidableEq, Repr

/-- What reaches the block from outside, one atomic event each (60_exceptions.md R182; 20_memory.md R55, R60). -/
inductive Input where
  /-- `HostWrite(idx, value)` (20_memory.md R52, R53). -/
  | hostWrite (idx : RegIndex) (value : HostValue)
  /-- `HostRead(idx)` (20_memory.md R54). -/
  | hostRead (idx : RegIndex)
  /-- The BitChannel completes the outstanding transaction. `v` is the presence a BusReset answers or the level a
  BusReadBit answers (1 is `true`); the completion of a BusWriteBit carries nothing, so no rule looks at its `v`
  (20_memory.md R60, R63; log entry 12). -/
  | busCompletion (v : Bool)
  /-- The BitChannel answers a transaction that a power-on reset abandoned: discarded
  (70_reset_and_hazards.md R202). -/
  | abandonedAnswer (v : Bool)
  /-- Power-on reset (70_reset_and_hazards.md R200, R202). -/
  | powerOn
  deriving DecidableEq, Repr

/-- The whole state. The first three groups are the spec's (10_state.md R20); the last two are the model's own. -/
structure State where
  /-- SearchState: the candidate buffer `cand[0..7]` (R22). -/
  cand : Ident
  /-- SearchState: `LD`, lastDiscrepancy, 0..64 in 7 bits (R23). -/
  ld : BitVec 7
  /-- SearchState: `LFD`, lastFamilyDiscrepancy, 0..8 in 4 bits (R24). -/
  lfd : BitVec 4
  /-- SearchState: `terminal`, enumeration is exhausted (R25). -/
  terminal : Bool
  /-- Flag FOUND: the most recent SEARCH ended with outcome Found (R29). -/
  found : Bool
  /-- Flag CMDERR: the most recent command word written to CMD was rejected (R31). -/
  cmderr : Bool
  /-- Hidden: the phase of the search machine (R35). BUSY is a function of it (R30). -/
  phase : Phase
  /-- Hidden: the current position, 1..64 in phases RDID, RDCMP and WRDIR (R36). -/
  pos : BitVec 7
  /-- Hidden: the index of the next bit of the search command byte (R37). -/
  cmdIdx : BitVec 3
  /-- Hidden: the identifier bit read at `pos` (R38). -/
  idb : Bool
  /-- Hidden: the complement bit read at `pos` (R38). -/
  cmpb : Bool
  /-- Hidden: the resolved direction at `pos` (R39). -/
  dir : Bool
  /-- Hidden: the pending fork of the running walk, 0..64 (R40). -/
  lastZero : BitVec 7
  /-- Ghost: the outcome class of the SEARCH that ended last, `none` before one has ended and while one walks
  (60_exceptions.md R170; log entry 6). -/
  outcome : Option SearchOutcome
  /-- Ghost: the transactions of the most recently accepted SEARCH, newest first (41_search.md R137; log entry 7). -/
  trace : List Transaction
  /-- Ghost: the most recent host read and the value it returned (20_memory.md R54; log entry 5). -/
  lastRead : Option (RegIndex × HostValue)
  /-- The environment's coming moves, in the order they take effect (20_memory.md R55, R66; log entry 1). -/
  inputs : List Input
  deriving DecidableEq, Repr

/-- Reasons for a step to stop with a fault. There is none: the block has no trap, exception or fault mechanism
(60_exceptions.md R178), and a transaction that never completes is a wait, not a fault (R189). -/
inductive Fault where
  deriving DecidableEq, Repr

/-- Reasons for an instruction to be refused. -/
inductive Refusal where
  /-- Raised only by an arm of `exec` whose instruction has no meaning yet (safe: the run stops). No arm does. -/
  | notModelled (mnemonic : String)
  deriving DecidableEq, Repr

/-- The all-zero candidate of the cleared form (40_state_commands.md R103). -/
def zeroIdent : Ident := Vector.replicate 8 0x00#8

/-- The state after power-on reset (10_state.md R43; 70_reset_and_hazards.md R200): the cleared SearchState, both
flags 0, IDLE. The hidden registers `pos`, `cmdIdx`, `idb`, `cmpb`, `dir` and `lastZero` are unspecified after reset
and never read before they are written (R203); the model names 0 for each (DESIGN CHOICE, log entry 3). The ghosts
are empty and nothing is pending. -/
def State.reset : State where
  cand := zeroIdent
  ld := 0#7
  lfd := 0#4
  terminal := false
  found := false
  cmderr := false
  phase := .idle
  pos := 0#7
  cmdIdx := 0#3
  idb := false
  cmpb := false
  dir := false
  lastZero := 0#7
  outcome := none
  trace := []
  lastRead := none
  inputs := []

end Sys2Proof.Machine
end

