-- ==== Sys2Proof/Machine/Flags.lean ====
section
/-! DEFINITION. The status flags as the host reads them, the packed host registers, and the outcome codes. -/

namespace Sys2Proof.Machine

/-- BUSY: 1 exactly while the phase is not IDLE (10_state.md R30). -/
def State.busy (s : State) : Bool := decide (s.phase ≠ .idle)

/-- STATUS (10_state.md R33): bits 7:4 read 0, bit 3 TERMINAL, bit 2 CMDERR, bit 1 FOUND, bit 0 BUSY. -/
def State.statusReg (s : State) : Byte :=
  0#4 ++ BitVec.ofBool s.terminal ++ BitVec.ofBool s.cmderr ++ BitVec.ofBool s.found ++ BitVec.ofBool s.busy

/-- CAND: byte i in bits 8i+7 .. 8i (10_state.md R34; 20_memory.md R56). -/
def packIdent (id : Ident) : BitVec 64 :=
  id[7] ++ id[6] ++ id[5] ++ id[4] ++ id[3] ++ id[2] ++ id[1] ++ id[0]

/-- The register CAND. -/
def State.candReg (s : State) : BitVec 64 := packIdent s.cand

/-- LDR: 0b0 above the 7 bits of LD (10_state.md R32). -/
def State.ldrReg (s : State) : Byte := 0#1 ++ s.ld

/-- LFDR: 0b0000 above the 4 bits of LFD (10_state.md R32). -/
def State.lfdrReg (s : State) : Byte := 0#4 ++ s.lfd

/-- What a host read of `idx` returns, in the low bits of the data lane (10_state.md R32; 20_memory.md R54): CMD and
the unmapped indices read 0. -/
def State.readReg (s : State) (idx : RegIndex) : HostValue :=
  match idx.toNat with
  | 1 => s.statusReg.zeroExtend 64
  | 2 => s.candReg
  | 3 => s.ldrReg.zeroExtend 64
  | 4 => s.lfdrReg.zeroExtend 64
  | _ => 0#64

/-- The model-level code of an outcome class (60_exceptions.md R170). -/
def SearchOutcome.code : SearchOutcome → Nat
  | .found => 0
  | .exhausted => 1
  | .busEmptyOrFaulted => 2
  | .busContentionAnomaly => 3
  | .degenerateResult => 4

end Sys2Proof.Machine
end

