-- ==== Sys2Proof/Machine/Operands.lean ====
section
/-! DEFINITION. The operand forms: bit positions of an identifier, the seeded candidate of TARGET, the bits of the
search command byte, the command word of a host write, and the direction taken at one position of the walk. -/

namespace Sys2Proof.Machine

/-- The byte a position lies in: `(p-1) div 8` (00_scope.md R12). -/
def byteOf (p : Nat) : Nat := (p - 1) / 8

/-- The bit index of a position in its byte, 0 the least significant: `(p-1) mod 8` (00_scope.md R12). -/
def bitOf (p : Nat) : Nat := (p - 1) % 8

/-- Bit `i` of a byte set to `b`, the others kept. -/
def setByteBit (x : Byte) (i : Nat) (b : Bool) : Byte :=
  if b then x ||| (1#8 <<< i) else x &&& ~~~(1#8 <<< i)

/-- `CandBit(p)`, the bit at position `p` (00_scope.md R14; 20_memory.md R51). Outside 1..64, where no reachable
state asks, it reads 0 (log entry 8). -/
def candBit (id : Ident) (p : Nat) : Bool := (id[byteOf p]?.getD 0x00#8).getLsbD (bitOf p)

/-- `SetCandBit(p, b)`: that bit alone is written (00_scope.md R14). Outside 1..64 nothing is (log entry 8). -/
def setCandBit (id : Ident) (p : Nat) (b : Bool) : Ident :=
  id.setIfInBounds (byteOf p) (setByteBit (id[byteOf p]?.getD 0x00#8) (bitOf p) b)

/-- Byte 0, the family code (00_scope.md R10). -/
def familyByte (id : Ident) : Byte := id[0]

/-- What TARGET f leaves in `cand`: the family code, then zeros (40_state_commands.md R106). -/
def seededIdent (f : Byte) : Ident := #v[f, 0x00#8, 0x00#8, 0x00#8, 0x00#8, 0x00#8, 0x00#8, 0x00#8]

/-- Bit `i` of SEARCH_CMD, counting from the least significant (20_memory.md R57; 41_search.md R142). -/
def searchCmdBit (i : BitVec 3) : Bool := Config.searchCmd.getLsbD i.toNat

/-- The command word of a write to CMD: the register's 16 bits (20_memory.md R52, R53; log entry 4). -/
def commandWordOf (value : HostValue) : CommandWord := value.extractLsb' 0 16

/-- A command word on the host's data lane. -/
def hostValueOf (w : CommandWord) : HostValue := w.zeroExtend 64

/-- The direction at a discrepancy: replay below LD, the unexplored sibling at LD, 0 above it
(41_search.md R127). `c` is CandBit(p). -/
def forkDirection (p ld : Nat) (c : Bool) : Bool :=
  if p < ld then c else if p = ld then true else false

/-- The direction at position `p` for a bit pair that is not (1,1): the agreed bit, or the choice at a discrepancy
(41_search.md R126, R127). -/
def walkDirection (idb cmpb : Bool) (p ld : Nat) (c : Bool) : Bool :=
  if idb ≠ cmpb then idb else forkDirection p ld c

/-- The pair records a pending fork: a discrepancy (0,0) resolved to 0 (41_search.md R128). -/
def isPendingFork (idb cmpb dir : Bool) : Bool := !idb && !cmpb && !dir

end Sys2Proof.Machine
end

