-- ==== Sys2Proof/Machine/Ops.lean ====
section
/-! DEFINITION. The operations the commands and the search machine share. The block takes no exceptions and returns
from none (60_exceptions.md R178, R179): what stands in their place is one shared failure path, `failSearch`. -/

namespace Sys2Proof.Machine

/-- `ClearState()` (40_state_commands.md R103): SearchState to its cleared form; flags and hidden registers kept. -/
def State.clearState (s : State) : State :=
  { s with cand := zeroIdent, ld := 0#7, lfd := 0#4, terminal := false }

/-- A rejected command sets CMDERR and changes nothing else (30_encoding.md R87, R88). -/
def State.rejectCommand (s : State) : State := { s with cmderr := true }

/-- The acceptance of a command: performed when BUSY = 0, CMDERR cleared first; rejected when BUSY = 1
(30_encoding.md R86, R88). -/
def State.accept (s : State) (effect : State → State) : State :=
  if s.busy then s.rejectCommand else effect { s with cmderr := false }

/-- `finish(o)` (00_scope.md R16): the SEARCH ends with outcome class `o` and the block is IDLE. -/
def State.finish (s : State) (o : SearchOutcome) : State := { s with phase := .idle, outcome := some o }

/-- A failed SEARCH, handled locally in the step that detects it: ClearState, FOUND <- 0, IDLE
(60_exceptions.md R178; 41_search.md R122, R125, R134). -/
def State.failSearch (s : State) (o : SearchOutcome) : State :=
  ({ s.clearState with found := false }).finish o

/-- A transaction has completed: the ghost trace holds it. -/
def State.record (s : State) (t : Transaction) : State := { s with trace := t :: s.trace }

/-- Power-on reset (70_reset_and_hazards.md R200, R202): the reset state, a running SEARCH abandoned. What the
environment does next is not the block's and stays pending (log entry 14). -/
def State.powerOnReset (s : State) : State := { State.reset with inputs := s.inputs }

/-- The host read interface: the value returned is recorded, and the block's state is unchanged
(20_memory.md R54). -/
def State.hostRead (s : State) (idx : RegIndex) : State := { s with lastRead := some (idx, s.readReg idx) }

end Sys2Proof.Machine
end

