-- ==== Sys2Proof/Machine/Lifecycle.lean ====
section
/-! DEFINITION. The SearchState lifecycle commands RSTATE and TARGET (40_state_commands.md). Neither touches the bus
and each completes in the accepting step (R100). -/

namespace Sys2Proof.Machine

/-- RSTATE (40_state_commands.md R102): ClearState, FOUND <- 0. -/
def State.clearSearch (s : State) : State := { s.clearState with found := false }

/-- TARGET f (40_state_commands.md R106): seed the candidate, LD <- 64, LFD, terminal and FOUND <- 0. -/
def State.seedSearch (f : Byte) (s : State) : State :=
  { s with cand := seededIdent f, ld := Config.targetLd, lfd := 0#4, terminal := false, found := false }

/-- The meaning of RSTATE. -/
def execRstate (s : State) : Host.Outcome State Fault Refusal := .next (s.accept State.clearSearch)

/-- The meaning of TARGET f. -/
def execTarget (f : Byte) (s : State) : Host.Outcome State Fault Refusal := .next (s.accept (State.seedSearch f))

end Sys2Proof.Machine
end

