-- ==== Sys2Proof/Machine/Search.lean ====
section
/-! DEFINITION. SEARCH: its acceptance, which is the meaning of the command, and the search machine that performs the
walk one bus transaction at a time (41_search.md R121 to R145). -/

namespace Sys2Proof.Machine

/-- An accepted SEARCH (41_search.md R121, R140): FOUND <- 0; with terminal = 1 it ends at once as Exhausted, with no
bus transaction and no write of SearchState; otherwise lastZero <- 0 and the machine goes to BUSRST. -/
def State.startSearch (s : State) : State :=
  if s.terminal then ({ s with found := false, trace := [] }).finish .exhausted
  else { s with found := false, lastZero := 0#7, phase := .busRst, outcome := none, trace := [] }

/-- The meaning of SEARCH: its accepting step. The steps of the walk are `engineStep`, one for each completion the
BitChannel gives (30_encoding.md R86; 41_search.md R140). -/
def execSearch (s : State) : Host.Outcome State Fault Refusal := .next (s.accept State.startSearch)

/-- Phase BUSRST (41_search.md R122, R141). -/
def State.busRstStep (presence : Bool) (s : State) : State :=
  if presence then { s.record (.reset true) with cmdIdx := 0#3, phase := .cmdBit }
  else (s.record (.reset false)).failSearch .busEmptyOrFaulted

/-- Phase CMDBIT (41_search.md R123, R142). -/
def State.cmdBitStep (s : State) : State :=
  if s.cmdIdx < 7#3 then { s.record (.write (searchCmdBit s.cmdIdx)) with cmdIdx := s.cmdIdx + 1#3 }
  else { s.record (.write (searchCmdBit s.cmdIdx)) with pos := 1#7, phase := .rdId }

/-- Phase RDID (41_search.md R124, R143). -/
def State.rdIdStep (b : Bool) (s : State) : State := { s.record (.read b) with idb := b, phase := .rdCmp }

/-- The direction at the current position, from the pair just read, LD and the candidate's bit there
(41_search.md R126, R127; LD is still the previous call's, 10_state.md R41). -/
def State.directionHere (s : State) : Bool :=
  walkDirection s.idb s.cmpb s.pos.toNat s.ld.toNat (candBit s.cand s.pos.toNat)

/-- The current position is a discrepancy that resolves to 0 (41_search.md R128). -/
def State.pendingForkHere (s : State) : Bool := isPendingFork s.idb s.cmpb s.directionHere

/-- Resolving the pair at `pos` (41_search.md R126 to R129): the direction, the pending fork, and LFD at once when the
fork lies in the first byte. -/
def State.resolvePair (s : State) : State :=
  { s with
    dir := s.directionHere
    lastZero := if s.pendingForkHere then s.pos else s.lastZero
    lfd := if s.pendingForkHere = true ∧ s.pos ≤ 8#7 then s.pos.truncate 4 else s.lfd
    phase := .wrDir }

/-- Phase RDCMP (41_search.md R125, R144): the pair (1,1) aborts the walk; any other is resolved. -/
def State.rdCmpStep (b : Bool) (s : State) : State :=
  if s.idb && b then ({ s.record (.read b) with cmpb := b }).failSearch .busContentionAnomaly
  else ({ s.record (.read b) with cmpb := b }).resolvePair

/-- The end of a walk of all 64 positions (41_search.md R133, then R134): LD <- lastZero, terminal set when it is 0,
then DegenerateResult if byte 0 is 0 and Found otherwise. -/
def State.completeWalk (s : State) : State :=
  if familyByte s.cand = 0x00#8 then
    ({ s with ld := s.lastZero, terminal := s.terminal || s.lastZero == 0#7 }).failSearch .degenerateResult
  else
    ({ s with ld := s.lastZero, terminal := s.terminal || s.lastZero == 0#7, found := true }).finish .found

/-- The write-back and the store at `pos` (41_search.md R130, R131). -/
def State.storeDir (s : State) : State :=
  { s.record (.write s.dir) with cand := setCandBit s.cand s.pos.toNat s.dir }

/-- Phase WRDIR (41_search.md R132, R145): store, then the next position or the end of the walk. -/
def State.wrDirStep (s : State) : State :=
  if s.pos < 64#7 then { s.storeDir with pos := s.pos + 1#7, phase := .rdId }
  else s.storeDir.completeWalk

/-- One step of the search machine: the outstanding transaction completes, carrying `v` (41_search.md R140). In IDLE
no transaction is outstanding and the Engine has no step (R147; log entry 9). -/
def State.engineStep (v : Bool) (s : State) : State :=
  match s.phase with
  | .idle => s
  | .busRst => s.busRstStep v
  | .cmdBit => s.cmdBitStep
  | .rdId => s.rdIdStep v
  | .rdCmp => s.rdCmpStep v
  | .wrDir => s.wrDirStep

end Sys2Proof.Machine
end

