-- ==== Sys2Proof/Machine/Dispatch.lean ====
section
/-! DEFINITION. One arm per command: the meaning of an accepted command word. -/

namespace Sys2Proof.Machine

def exec (i : Instr) (s : State) : Host.Outcome State Fault Refusal :=
  match i with
  | .rstate => Sys2Proof.Machine.execRstate s
  | .target f => Sys2Proof.Machine.execTarget f s
  | .search => Sys2Proof.Machine.execSearch s

end Sys2Proof.Machine
end

