-- ==== Sys2Proof/Machine/Interface.lean ====
section
/-! DEFINITION. The block's two interfaces: host accesses (20_memory.md R52 to R55) and BitChannel events
(R60 to R65), and how one input takes effect. -/

namespace Sys2Proof.Machine

/-- A command word submitted to CMD (20_memory.md R53; 30_encoding.md R86 to R88): a malformed word is rejected, a
command is performed or, while BUSY = 1, rejected by its own acceptance check. -/
def submit (w : CommandWord) (s : State) : Host.Outcome State Fault Refusal :=
  match decode w with
  | .malformed _ => .next s.rejectCommand
  | .valid i => exec i s

/-- `HostWrite(idx, value)`: a write to CMD submits a command, any other write is ignored (10_state.md R32). -/
def hostWrite (idx : RegIndex) (value : HostValue) (s : State) : Host.Outcome State Fault Refusal :=
  if idx = Config.cmdIndex then submit (commandWordOf value) s else .next s

/-- One input takes effect. -/
def deliver (i : Input) (s : State) : Host.Outcome State Fault Refusal :=
  match i with
  | .hostWrite idx value => hostWrite idx value s
  | .hostRead idx => .next (s.hostRead idx)
  | .busCompletion v => .next (s.engineStep v)
  | .abandonedAnswer _ => .next s
  | .powerOn => .next s.powerOnReset

/-- The next input takes effect. With none pending the block waits unchanged: an idle block for a command, a running
SEARCH for its transaction's completion (20_memory.md R65; 41_search.md R147; 60_exceptions.md R189; log entry 2). -/
def advance (s : State) : Host.Outcome State Fault Refusal :=
  match s.inputs with
  | [] => .next s
  | i :: rest => deliver i { s with inputs := rest }

/-- `s` with `i` as the next input, before those already pending. -/
def State.facing (s : State) (i : Input) : State := { s with inputs := i :: s.inputs }

/-- The CMD write of the command word `w`. -/
def commandWrite (w : CommandWord) : Input := .hostWrite Config.cmdIndex (hostValueOf w)

end Sys2Proof.Machine
end

