-- ==== Sys2Proof/Machine/Step.lean ====
section
/-! DEFINITION. The step of the machine, and how the host of this row places a command for it. -/

namespace Sys2Proof.Machine

/-- One step: the next input takes effect between two others, as 20_memory.md R55 orders them. -/
def step (s : State) : Host.Outcome State Fault Refusal := advance s

/-- `s` with the CMD write of the word `w` (its low `nbits`) as the next input. The block fetches nothing
(20_memory.md R68): a command arrives as a host write, so this stands for the host submitting it (log entry 10). -/
def State.withFetchWord (s : State) (nbits w : Nat) : State :=
  s.facing (commandWrite (BitVec.ofNat 16 (w % 2 ^ nbits)))

end Sys2Proof.Machine
end

