-- ==== Sys2Proof/Machine/BitChannel.lean ====
section
/-! DEFINITION. The block closed with a BitChannel, the spec's open parameter `bus` (00_scope.md R6, R11): which
transaction the Engine has outstanding, a BitChannel that answers it, and the block run against that BitChannel. A
BitChannel here is an agent of the environment; nothing of it is in the block's State (10_state.md R42). -/

namespace Sys2Proof.Machine

/-- The three transactions the Engine may request (20_memory.md R60). -/
inductive BusRequest where
  | reset
  | write (b : Bool)
  | read
  deriving DecidableEq, Repr

/-- The outstanding transaction, at most one, fixed by the hidden registers (20_memory.md R64; 41_search.md R140). -/
def State.request (s : State) : Option BusRequest :=
  match s.phase with
  | .idle => none
  | .busRst => some .reset
  | .cmdBit => some (.write (searchCmdBit s.cmdIdx))
  | .rdId => some .read
  | .rdCmp => some .read
  | .wrDir => some (.write s.dir)

/-- A behaviour of the BitChannel agent over its own state `β`: how it completes a request, or `none` for a
transaction that never completes (00_scope.md R11; 20_memory.md R65). -/
structure BitChannel (β : Type) where
  answer : β → BusRequest → Option (β × Bool)

/-- The block and the bus it serves. -/
structure System (β : Type) where
  block : State
  bus : β
  deriving DecidableEq, Repr

/-- The block after one input, taken by the machine's own step; inputs already pending wait. -/
def State.feed (i : Input) (s : State) : State :=
  match step (s.facing i) with
  | .next t => t
  | .fault _ => s
  | .refused _ => s

/-- The BitChannel completes the outstanding transaction, if there is one and it ever completes. -/
def System.transact {β : Type} (ch : BitChannel β) (x : System β) : System β :=
  match x.block.request with
  | none => x
  | some r =>
    match ch.answer x.bus r with
    | none => x
    | some (bus', v) => { block := x.block.feed (.busCompletion v), bus := bus' }

/-- WAIT with a bound on its polls: transactions complete until BUSY = 0 (30_encoding.md R92; 70_reset_and_hazards.md
R210). `Config.longestSearch` polls see the end of any SEARCH whose transactions complete (41_search.md R137). -/
def System.wait {β : Type} (ch : BitChannel β) : Nat → System β → System β
  | 0, x => x
  | n + 1, x => if x.block.busy then (x.transact ch).wait ch n else x

/-- The host submits a command word. -/
def System.command {β : Type} (w : CommandWord) (x : System β) : System β :=
  { x with block := x.block.feed (commandWrite w) }

/-- SEARCH, then WAIT. -/
def System.search {β : Type} (ch : BitChannel β) (x : System β) : System β :=
  (x.command (encode .search)).wait ch Config.longestSearch

/-- `n` SEARCHes one after another, each waited for. -/
def System.searches {β : Type} (ch : BitChannel β) : Nat → System β → System β
  | 0, x => x
  | n + 1, x => (x.search ch).searches ch n

end Sys2Proof.Machine
end

