-- ==== Sys2Proof/Machine/HostProgram.lean ====
section
/-! DEFINITION. The host's side, which is no part of the hardware (92_eei_decisions.md D21, D22): the assembler syntax
of commands (30_encoding.md R91), the host steps WAIT, READ and WRITE (R92) and the macro ENUMERATE (R93). -/

namespace Sys2Proof.Machine

/-- The named host registers (10_state.md R32). -/
inductive HostReg where
  | cmd
  | status
  | cand
  | ldr
  | lfdr
  deriving DecidableEq, Repr

def HostReg.index : HostReg → RegIndex
  | .cmd => Config.cmdIndex
  | .status => Config.statusIndex
  | .cand => Config.candIndex
  | .ldr => Config.ldrIndex
  | .lfdr => Config.lfdrIndex

/-- One line of a host program (30_encoding.md R91, R92). -/
inductive HostOp where
  /-- A command line: the `HostWrite(0, encoding)`. -/
  | command (i : Instr)
  /-- `WAIT`: read STATUS until BUSY = 0. -/
  | wait
  /-- `READ <reg>`. -/
  | read (r : HostReg)
  /-- `WRITE <w>`, a raw word. -/
  | write (w : CommandWord)
  deriving DecidableEq, Repr

/-- A host and the block it drives, with the values its READs returned, newest first. -/
structure Session (β : Type) where
  sys : System β
  reads : List (HostReg × HostValue)
  deriving DecidableEq, Repr

/-- One host step. The Engine takes its steps while the host WAITs: host lines between two WAITs follow one another
with no Engine step between them (one of the interleavings 20_memory.md R55 allows; log entry 17). -/
def Session.run {β : Type} (ch : BitChannel β) (op : HostOp) (x : Session β) : Session β :=
  match op with
  | .command i => { x with sys := x.sys.command (encode i) }
  | .write w => { x with sys := x.sys.command w }
  | .wait => { x with sys := x.sys.wait ch Config.longestSearch }
  | .read r =>
    { sys := { x.sys with block := x.sys.block.feed (.hostRead r.index) }
      reads := (r, x.sys.block.readReg r.index) :: x.reads }

/-- A host program, line by line. -/
def Session.runAll {β : Type} (ch : BitChannel β) : List HostOp → Session β → Session β
  | [], x => x
  | op :: ops, x => (x.run ch op).runAll ch ops

/-- ENUMERATE's loop with at most `n` rounds (30_encoding.md R93): SEARCH, WAIT, READ STATUS, stop when FOUND = 0, READ
CAND. The identifiers come back in the order found, with the session they leave. The spec's loop has no bound;
`n` is the model's, so that the loop is a total function (DESIGN CHOICE, log entry 17). -/
def Session.enumerateLoop {β : Type} (ch : BitChannel β) : Nat → Session β → List (BitVec 64) × Session β
  | 0, x => ([], x)
  | n + 1, x =>
    let y := x.runAll ch [.command .search, .wait, .read .status]
    if (y.sys.block.statusReg).getLsbD 1 then
      let z := y.run ch (.read .cand)
      let more := z.enumerateLoop ch n
      (y.sys.block.candReg :: more.1, more.2)
    else ([], y)

/-- ENUMERATE with at most `n` rounds: RSTATE, then the loop (30_encoding.md R93). -/
def Session.enumerate {β : Type} (ch : BitChannel β) (n : Nat) (x : Session β) : List (BitVec 64) × Session β :=
  (x.run ch (.command .rstate)).enumerateLoop ch n

/-! The assembler. A line is a list of characters; tokens are separated by blanks or tabs (log entry 16). -/

/-- The part of a line before its comment (30_encoding.md R91: a `;` starts one). -/
def stripComment (line : List Char) : List Char := line.takeWhile (· ≠ ';')

/-- A separator between tokens. -/
def isBlank (c : Char) : Bool := c = ' ' || c = '\t'

/-- Put a finished token, if there is one, before the others. -/
def consToken (tok : List Char) (toks : List (List Char)) : List (List Char) :=
  if tok = [] then toks else tok :: toks

/-- The tokens of a line: `(current, later)`, the current one being read from the right. -/
def splitTokens : List Char → List Char × List (List Char)
  | [] => ([], [])
  | c :: cs =>
    if isBlank c then ([], consToken (splitTokens cs).1 (splitTokens cs).2)
    else (c :: (splitTokens cs).1, (splitTokens cs).2)

/-- The tokens of a line before its comment. -/
def tokensOf (line : List Char) : List (List Char) :=
  consToken (splitTokens (stripComment line)).1 (splitTokens (stripComment line)).2

/-- A letter in upper case, for mnemonics are case-insensitive (30_encoding.md R91). -/
def upper (c : Char) : Char :=
  if 'a'.toNat ≤ c.toNat ∧ c.toNat ≤ 'z'.toNat then Char.ofNat (c.toNat - 32) else c

/-- The value of a digit in the given base, 10 or 16. -/
def digitValue (base : Nat) (c : Char) : Option Nat :=
  if '0'.toNat ≤ c.toNat ∧ c.toNat ≤ '9'.toNat then some (c.toNat - '0'.toNat)
  else if base = 16 ∧ 'A'.toNat ≤ (upper c).toNat ∧ (upper c).toNat ≤ 'F'.toNat then
    some ((upper c).toNat - 'A'.toNat + 10)
  else none

/-- The digits after a value already read. -/
def parseDigits (base : Nat) : List Char → Nat → Option Nat
  | [], acc => some acc
  | c :: cs, acc =>
    match digitValue base c with
    | none => none
    | some d => parseDigits base cs (acc * base + d)

/-- An integer in decimal or as `0x` hexadecimal (30_encoding.md R91). -/
def parseNumber : List Char → Option Nat
  | [] => none
  | ['0', 'x'] => none
  | '0' :: 'x' :: cs => parseDigits 16 cs 0
  | cs => parseDigits 10 cs 0

/-- What a line assembles to. -/
inductive AsmLine where
  /-- Nothing but blanks or a comment. -/
  | empty
  | op (o : HostOp)
  /-- The assembler rejects the line (30_encoding.md R91). -/
  | rejected
  deriving DecidableEq, Repr

/-- The register a READ names. -/
def parseReg (tok : List Char) : Option HostReg :=
  if tok.map upper = ['C', 'M', 'D'] then some .cmd
  else if tok.map upper = ['S', 'T', 'A', 'T', 'U', 'S'] then some .status
  else if tok.map upper = ['C', 'A', 'N', 'D'] then some .cand
  else if tok.map upper = ['L', 'D', 'R'] then some .ldr
  else if tok.map upper = ['L', 'F', 'D', 'R'] then some .lfdr
  else none

/-- TARGET's operand, an integer 0..255: any other is rejected (30_encoding.md R91). -/
def assembleTarget (tok : List Char) : AsmLine :=
  match parseNumber tok with
  | some n => if n < 256 then .op (.command (.target (BitVec.ofNat 8 n))) else .rejected
  | none => .rejected

/-- WRITE's operand, a raw 16-bit word (30_encoding.md R92; 20_memory.md R53). R92 gives it no number form and no
range: it is written as TARGET's operand is, and a value of 65536 or more is rejected (DESIGN CHOICE, log entry 21). -/
def assembleWrite (tok : List Char) : AsmLine :=
  match parseNumber tok with
  | some n => if n < 65536 then .op (.write (BitVec.ofNat 16 n)) else .rejected
  | none => .rejected

/-- READ's operand, a register's name (30_encoding.md R92), in either case (DESIGN CHOICE, log entry 16). -/
def assembleRead (tok : List Char) : AsmLine :=
  match parseReg tok with
  | some r => .op (.read r)
  | none => .rejected

/-- One line (30_encoding.md R91, R92). The label `loop:` and the line `goto loop`, which R93 and the programs of
95_test_vectors.md write, have no syntax rule: a line that holds one is rejected here, and the loop they stand for is
`Session.enumerateLoop` (DESIGN CHOICE, log entry 22). -/
def assembleLine (line : List Char) : AsmLine :=
  match tokensOf line with
  | [] => .empty
  | [m] =>
    if m.map upper = ['R', 'S', 'T', 'A', 'T', 'E'] then .op (.command .rstate)
    else if m.map upper = ['S', 'E', 'A', 'R', 'C', 'H'] then .op (.command .search)
    else if m.map upper = ['W', 'A', 'I', 'T'] then .op .wait
    else .rejected
  | [m, operand] =>
    if m.map upper = ['T', 'A', 'R', 'G', 'E', 'T'] then assembleTarget operand
    else if m.map upper = ['R', 'E', 'A', 'D'] then assembleRead operand
    else if m.map upper = ['W', 'R', 'I', 'T', 'E'] then assembleWrite operand
    else .rejected
  | _ :: _ :: _ :: _ => .rejected

end Sys2Proof.Machine
end

