-- ==== Sys2Proof/Machine/ReferenceBus.lean ====
section
/-! DEFINITION. The reference bus (20_memory.md R70 to R76): the environment in which the source's properties are
stated. It restricts nothing in the block. -/

namespace Sys2Proof.Machine

/-- What the devices are listening to since the last BusReset (20_memory.md R72). -/
inductive BusMode where
  /-- The command byte is arriving, its bits so far newest first. -/
  | command (bits : List Bool)
  /-- The byte was 0xF0: the search has begun. -/
  | searching
  /-- Another byte: what a device does then is outside the spec (91_not_in_source.md N7). -/
  | unspecified
  deriving DecidableEq, Repr

/-- The fault variants of 20_memory.md R75. -/
inductive BusFault where
  | none
  /-- BusReset answers 1 and every BusReadBit answers 1. -/
  | short
  /-- From position `m` on, every BusReadBit answers 1. -/
  | dropAt (m : Nat)
  deriving DecidableEq, Repr

/-- Reference bus state (20_memory.md R70). -/
structure RefBus where
  /-- `Devs`, the attached devices' identifiers, pairwise distinct. -/
  devs : List Ident
  /-- `Part`, the participating devices. -/
  part : List Ident
  /-- `q`, the current search position. -/
  q : Nat
  /-- `k`, the read slots already taken at `q`. -/
  k : Nat
  mode : BusMode
  fault : BusFault
  deriving DecidableEq, Repr

/-- A bus with these devices, before its first BusReset. 20_memory.md R70 gives `Part`, `q` and `k` no start values:
all devices, 1 and 0 are the model's (DESIGN CHOICE, log entry 20), and the first BusReset overwrites them (R71). -/
def RefBus.of (devs : List Ident) : RefBus :=
  { devs := devs, part := devs, q := 1, k := 0, mode := .unspecified, fault := .none }

/-- The line in a read slot: the AND of what the participants drive, 1 over no participant (20_memory.md R62, R73). -/
def wiredAnd (part : List Ident) (drive : Ident → Bool) : Bool := part.all drive

/-- Reference BusReset (20_memory.md R71, R75). -/
def RefBus.onReset (b : RefBus) : RefBus × Bool :=
  ({ b with part := b.devs, q := 1, k := 0, mode := .command [] },
    decide (b.fault = .short) || !b.devs.isEmpty)

/-- The command byte from its eight bits, newest first: the first bit sent is the least significant
(20_memory.md R72). -/
def commandByte : List Bool → Nat
  | [] => 0
  | b :: older => b.toNat * 2 ^ older.length + commandByte older

/-- A write slot while the command byte arrives: its eighth bit completes it (20_memory.md R72). -/
def RefBus.onCommandBit (b : RefBus) (bits : List Bool) (v : Bool) : RefBus :=
  if bits.length < 7 then { b with mode := .command (v :: bits) }
  else if commandByte (v :: bits) = Config.searchCmd.toNat then { b with mode := .searching }
  else { b with mode := .unspecified }

/-- A write slot during the search: the devices that disagree drop out (20_memory.md R74). R74
speaks of positions 1 to 64 only; beyond them the same equation is the model's (DESIGN CHOICE, log entry 19). -/
def RefBus.onDirection (b : RefBus) (v : Bool) : RefBus :=
  { b with part := b.part.filter (fun id => candBit id b.q == v), q := b.q + 1, k := 0 }

/-- The level of a read slot during the search, the fault-free devices' (20_memory.md R73): identifier bit first, its
complement second. The spec gives no third slot at one position (91_not_in_source.md N7; log entry 13) and no slot past
position 64 (00_scope.md R12), where `candBit` reads 0 (DESIGN CHOICE, log entry 19). -/
def RefBus.slotLevel (b : RefBus) : Option Bool :=
  match b.k with
  | 0 => some (wiredAnd b.part (fun id => candBit id b.q))
  | 1 => some (wiredAnd b.part (fun id => !candBit id b.q))
  | _ => none

/-- A fault variant holds the line high in this read slot (20_memory.md R75). A bus has a position only during the
search, so a drop acts only there (DESIGN CHOICE, log entry 13). -/
def RefBus.forcedHigh (b : RefBus) : Bool :=
  match b.fault with
  | .none => false
  | .short => true
  | .dropAt m => decide (b.mode = .searching ∧ m ≤ b.q)

/-- A read slot (20_memory.md R73, R75). Where the spec gives none, it does not complete (DESIGN CHOICE, log entry 13),
except past position 64 of a search, where it completes as `slotLevel` says (DESIGN CHOICE, log entry 19). -/
def RefBus.onRead (b : RefBus) : Option (RefBus × Bool) :=
  if b.forcedHigh then some ({ b with k := b.k + 1 }, true)
  else
    match b.mode, b.slotLevel with
    | .searching, some level => some ({ b with k := b.k + 1 }, level)
    | .searching, none => none
    | .command _, _ => none
    | .unspecified, _ => none

/-- A write slot (20_memory.md R72, R74). Where the spec gives none, it does not complete (DESIGN CHOICE, log entry
13), except past position 64 of a search, where it completes as `onDirection` says (DESIGN CHOICE, log entry 19). -/
def RefBus.onWrite (b : RefBus) (v : Bool) : Option RefBus :=
  match b.mode with
  | .command bits => some (b.onCommandBit bits v)
  | .searching => some (b.onDirection v)
  | .unspecified => none

/-- The reference bus as a BitChannel. What the spec leaves outside it (91_not_in_source.md N7) never completes
(DESIGN CHOICE, log entry 13), but for the slots after the write of position 64 (DESIGN CHOICE, log entry 19).
The Engine never asks for any of it. -/
def RefBus.channel : BitChannel RefBus where
  answer b r :=
    match r with
    | .reset => some b.onReset
    | .write v => (b.onWrite v).map (fun b' => (b', false))
    | .read => b.onRead

/-- The key by which enumeration is ordered: position 1 is the most significant bit (41_search.md R151). -/
def enumerationKey (id : Ident) : Nat :=
  (List.range 64).foldl (fun acc i => 2 * acc + (candBit id (i + 1)).toNat) 0

end Sys2Proof.Machine
end

