-- ==== Sys2Proof/Machine/ReferenceSearch.lean ====
section
/-! DEFINITION. SEARCH as one reference operation (41_search.md R120): its pseudocode line by line, on the list of
answers the BitChannel gives. 41_search.md R146 says that the search machine of Machine/Search.lean is equal to it. -/

namespace Sys2Proof.Machine

/-- What the reference operation works on: SearchState, FOUND, the pending fork and the transactions performed. -/
structure WalkRegs where
  cand : Ident
  ld : BitVec 7
  lfd : BitVec 4
  terminal : Bool
  found : Bool
  lastZero : BitVec 7
  trace : List Transaction
  deriving DecidableEq, Repr

/-- Where the reference operation stands when the answers run out, or its end with the answers it did not use. -/
inductive WalkResult where
  /-- `finish(o)`. -/
  | finished (o : SearchOutcome) (r : WalkRegs) (unused : List Bool)
  /-- The next transaction has not completed (20_memory.md R65). -/
  | stalled (r : WalkRegs)
  deriving DecidableEq, Repr

/-- The walk's registers in a state of the machine. -/
def State.walkRegs (s : State) : WalkRegs :=
  { cand := s.cand, ld := s.ld, lfd := s.lfd, terminal := s.terminal, found := s.found, lastZero := s.lastZero,
    trace := s.trace }

/-- A transaction performed. -/
def WalkRegs.perform (r : WalkRegs) (t : Transaction) : WalkRegs := { r with trace := t :: r.trace }

/-- `ClearState(); finish(o)` with FOUND = 0. -/
def WalkRegs.fail (r : WalkRegs) (o : SearchOutcome) (unused : List Bool) : WalkResult :=
  .finished o { r with cand := zeroIdent, ld := 0#7, lfd := 0#4, terminal := false, found := false } unused

/-- The lines after the loop (R133, R134). -/
def refComplete (r : WalkRegs) (answers : List Bool) : WalkResult :=
  if familyByte r.cand = 0x00#8 then r.fail .degenerateResult answers
  else .finished .found
    { r with ld := r.lastZero, terminal := if r.lastZero = 0#7 then true else r.terminal, found := true } answers

/-- The lines of the loop from the bit pair to the choice of `dir` (R126 to R129), for position `p`. -/
def refResolve (p : Nat) (idb cmpb : Bool) (r : WalkRegs) : Bool × WalkRegs :=
  if idb ≠ cmpb then (idb, r)
  else if p < r.ld.toNat ∧ candBit r.cand p = true ∨ p = r.ld.toNat then (true, r)
  else
    (false, { r with
      lastZero := BitVec.ofNat 7 p
      lfd := if p ≤ Config.familyBits then BitVec.ofNat 4 p else r.lfd })

/-- `for p in 1..64` with `n` positions left to visit, so that `p = 65 - n` (R124 to R132). -/
def refWalk : Nat → WalkRegs → List Bool → WalkResult
  | 0, r, answers => refComplete r answers
  | _ + 1, r, [] => .stalled r
  | _ + 1, r, [idb] => .stalled (r.perform (.read idb))
  | n + 1, r, idb :: cmpb :: rest =>
    if idb = true ∧ cmpb = true then
      ((r.perform (.read idb)).perform (.read cmpb)).fail .busContentionAnomaly rest
    else
      match refResolve (64 - n) idb cmpb ((r.perform (.read idb)).perform (.read cmpb)), rest with
      | (_, r'), [] => .stalled r'
      | (dir, r'), _ :: rest' =>
        refWalk n { r'.perform (.write dir) with cand := setCandBit r'.cand (64 - n) dir } rest'

/-- `WriteByte` of the bits still to send (R123), then the walk. -/
def refWrite : List Bool → WalkRegs → List Bool → WalkResult
  | [], r, answers => refWalk Config.idBits r answers
  | _ :: _, r, [] => .stalled r
  | b :: bits, r, _ :: rest => refWrite bits (r.perform (.write b)) rest

/-- The bits of a byte in bus order, least significant first (20_memory.md R57). -/
def bitsOf (v : Byte) : List Bool := (List.range 8).map v.getLsbD

/-- SEARCH (41_search.md R120): `answers` holds the value of each completion in turn. -/
def refSearch (r : WalkRegs) (answers : List Bool) : WalkResult :=
  if r.terminal then .finished .exhausted { r with found := false, trace := [] } answers
  else
    match answers with
    | [] => .stalled { r with found := false, lastZero := 0#7, trace := [] }
    | presence :: rest =>
      if presence then
        refWrite (bitsOf Config.searchCmd)
          { r with found := false, lastZero := 0#7, trace := [.reset true] } rest
      else
        WalkRegs.fail { r with found := false, lastZero := 0#7, trace := [.reset false] } .busEmptyOrFaulted rest

end Sys2Proof.Machine
end

