-- ==== Sys2Proof/Safety.lean ====
section
/-! DEFINITION. What claims are stated in: the invariant of the block, the shape of a SEARCH's transactions, the host's
duties, and which parts of the state the host can tell apart. -/

namespace Sys2Proof.Machine

/-- The kind of a transaction, its value left out. -/
inductive TransactionKind where
  | reset
  | write
  | read
  deriving DecidableEq, Repr

def Transaction.kind : Transaction → TransactionKind
  | .reset _ => .reset
  | .write _ => .write
  | .read _ => .read

/-- The kind of the `n`-th transaction of a SEARCH, counting from 0: one reset, eight writes, then read, read, write at
each position (41_search.md R137). -/
def expectedKind (n : Nat) : TransactionKind :=
  if n = 0 then .reset
  else if n < 9 then .write
  else if n % 3 = 2 then .write
  else .read

/-- The first nine transactions of a SEARCH that sees presence: the reset, then the bits of SEARCH_CMD = 0xF0 least
significant first (41_search.md R122, R123; 20_memory.md R57). -/
def openingTransactions : List Transaction :=
  [.reset true, .write false, .write false, .write false, .write false,
    .write true, .write true, .write true, .write true]

/-- How many transactions of the running SEARCH have completed (41_search.md R137, R140). -/
def State.completedTransactions (s : State) : Nat :=
  match s.phase with
  | .idle => s.trace.length
  | .busRst => 0
  | .cmdBit => 1 + s.cmdIdx.toNat
  | .rdId => 9 + 3 * (s.pos.toNat - 1)
  | .rdCmp => 10 + 3 * (s.pos.toNat - 1)
  | .wrDir => 11 + 3 * (s.pos.toNat - 1)

/-- The block is inside the loop over positions. -/
def Phase.walking : Phase → Bool
  | .rdId => true
  | .rdCmp => true
  | .wrDir => true
  | .idle => false
  | .busRst => false
  | .cmdBit => false

/-- The largest position whose direction may already be recorded as the pending fork. -/
def State.resolvedUpTo (s : State) : Nat :=
  match s.phase with
  | .rdId => s.pos.toNat - 1
  | .rdCmp => s.pos.toNat - 1
  | .wrDir => s.pos.toNat
  | .idle => 64
  | .busRst => 0
  | .cmdBit => 0

/-- The invariant of the block. -/
structure State.Inv (s : State) : Prop where
  /-- `0 ≤ LD ≤ 64` (10_state.md R26). -/
  ld_range : s.ld.toNat ≤ 64
  /-- `0 ≤ LFD ≤ 8` (10_state.md R26). -/
  lfd_range : s.lfd.toNat ≤ 8
  /-- `terminal = 1 ⇒ LD = 0` (10_state.md R26). -/
  terminal_ld : s.terminal = true → s.ld = 0#7
  /-- While a SEARCH runs, terminal = 0 (41_search.md R121, R133). -/
  busy_terminal : s.busy = true → s.terminal = false
  /-- While a SEARCH runs, FOUND = 0 (10_state.md R29). -/
  busy_found : s.busy = true → s.found = false
  /-- FOUND = 1 only beside an identifier whose byte 0 is not 0 (41_search.md R134). -/
  found_family : s.found = true → familyByte s.cand ≠ 0x00#8
  /-- FOUND = 1 only after outcome Found (10_state.md R29). -/
  found_outcome : s.found = true → s.outcome = some .found
  /-- `1 ≤ pos ≤ 64` in the phases that use it (10_state.md R36). -/
  pos_range : s.phase.walking = true → 1 ≤ s.pos.toNat ∧ s.pos.toNat ≤ 64
  /-- The pending fork is a position already resolved, or 0 (10_state.md R40). -/
  lastZero_range : s.busy = true → s.lastZero.toNat ≤ s.resolvedUpTo
  /-- A pair on which a direction was resolved is not (1,1) (41_search.md R125). -/
  pair_resolved : s.phase = .wrDir → ¬(s.idb = true ∧ s.cmpb = true)
  /-- Where the pair agrees on a bit, that bit is the direction (41_search.md R126). -/
  dir_agrees : s.phase = .wrDir → s.idb ≠ s.cmpb → s.dir = s.idb
  /-- The running SEARCH has performed the transactions its phase says (41_search.md R137). -/
  trace_length : s.trace.length = s.completedTransactions
  /-- No SEARCH performs more than 201 (41_search.md R137). -/
  trace_bound : s.trace.length ≤ 201
  /-- They came in the fixed order (41_search.md R137). -/
  trace_kinds : s.trace.reverse.map Transaction.kind = (List.range s.trace.length).map expectedKind
  /-- A SEARCH that got past its reset saw presence, and sent the bits of SEARCH_CMD least significant first
  (41_search.md R122, R123). -/
  trace_opening : (1 < s.trace.length ∨ s.phase = .cmdBit) →
    s.trace.reverse.take 9 <+: openingTransactions

/-- The hidden registers set to fixed values: what is left is what can ever reach the host, the bus or the ghosts. -/
def State.eraseHidden (s : State) : State :=
  { s with pos := 0#7, cmdIdx := 0#3, idb := false, cmpb := false, dir := false, lastZero := 0#7 }

/-- CAND holds a result (70_reset_and_hazards.md R212): BUSY = 0 and FOUND = 1. Its third condition, no command
accepted since, is within FOUND = 1, which every accepted command ends. -/
def State.resultValid (s : State) : Bool := !s.busy && s.found

/-- The host keeps its duties in its next access: it writes only well-formed command words, and none while a SEARCH
runs (70_reset_and_hazards.md R210; 93_implementation_defined.md U10, U11). Breaking them is no fault of the block: it
sets CMDERR. -/
def State.hostDisciplined (s : State) : Bool :=
  match s.inputs with
  | .hostWrite idx value :: _ =>
    decide (idx ≠ Config.cmdIndex) || (!s.busy && (splitWord (commandWordOf value)).wellFormed)
  | _ => true

/-- `n` steps of the machine. -/
def run : Nat → State → Host.Outcome State Fault Refusal
  | 0, s => .next s
  | n + 1, s =>
    match step s with
    | .next t => run n t
    | .fault f => .fault f
    | .refused r => .refused r

/-- SearchState is in its cleared form (40_state_commands.md R103). -/
def State.cleared (s : State) : Prop :=
  s.cand = zeroIdent ∧ s.ld = 0#7 ∧ s.lfd = 0#4 ∧ s.terminal = false

end Sys2Proof.Machine
end

