-- ==== Sys2Proof/Certificates/Slice0/Obligations.lean ====
section
/-! DEFINITION. The statements for the provers, in the order of the spec's files. -/

open Sys2Proof Sys2Proof.Machine

/-! Encoding (30_encoding.md). -/

/-- The encoding examples of R94. -/
def Obligations.DecodesSpecExampleWords : Prop :=
  decode 0x0001#16 = .valid .rstate ∧
  decode 0x2802#16 = .valid (.target 0x28#8) ∧
  decode 0x0002#16 = .valid (.target 0x00#8) ∧
  decode 0xFF02#16 = .valid (.target 0xFF#8) ∧
  decode 0x0003#16 = .valid .search ∧
  (∃ why, decode 0x0103#16 = .malformed why) ∧
  (∃ why, decode 0x0013#16 = .malformed why) ∧
  (∃ why, decode 0x0004#16 = .malformed why)

/-- R89's opcode map as match and mask, and that a word stands for one command: decoding inverts encoding, both ways,
for every command and every word. -/
def Obligations.DecodeAndEncodeAgree : Prop :=
  ∀ (w : CommandWord),
    (decode w = .valid .rstate ↔ w &&& 0xFFFF#16 = 0x0001#16) ∧
    (∀ f : Byte, decode w = .valid (.target f) ↔ w &&& 0x00FF#16 = 0x0002#16 ∧ f = (w >>> 8).truncate 8) ∧
    (decode w = .valid .search ↔ w &&& 0xFFFF#16 = 0x0003#16) ∧
    (∀ i : Instr, decode w = .valid i ↔ w = encode i)

/-- The malformed words are those R90 lists, and nothing else. -/
def Obligations.MalformedWordsAreTheReservedOnes : Prop :=
  ∀ (w : CommandWord),
    (∃ why, decode w = .malformed why) ↔
      (w.extractLsb' 0 4 = 0x0#4 ∨ 4 ≤ (w.extractLsb' 0 4).toNat) ∨
      w.extractLsb' 4 4 ≠ 0#4 ∨
      ((w.extractLsb' 0 4 = 0x1#4 ∨ w.extractLsb' 0 4 = 0x3#4) ∧ w.extractLsb' 8 8 ≠ 0x00#8)

/-- R90's count: all words but 2 and 256 are malformed. -/
def Obligations.ReservedWordCount : Prop :=
  (Finset.univ.filter (fun w : CommandWord => (decode w).isMalformed = false)).card = 2 + 256 ∧
  (Finset.univ.filter (fun w : CommandWord => (decode w).isMalformed = true)).card = 65278

/-! Host interface (10_state.md, 20_memory.md, 30_encoding.md). -/

/-- A step whose input is a CMD write of a word that decodes to `i` is `exec` of `i`, with nothing else done but the
input consumed; and `withFetchWord` places such a write. -/
def Obligations.StepRunsTheDecodedCommand : Prop :=
  (∀ (s : State) (value : HostValue) (rest : List Input) (i : Instr),
    s.inputs = .hostWrite 0#4 value :: rest → decode (commandWordOf value) = .valid i →
      step s = exec i { s with inputs := rest }) ∧
  (∀ (s : State) (i : Instr), step (s.withFetchWord 16 (encode i).toNat) = exec i s)

/-- R87: a malformed word written while BUSY = 0 sets CMDERR and changes no other state. -/
def Obligations.MalformedWordOnlySetsCmderr : Prop :=
  ∀ (s : State) (value : HostValue) (why : Malformed),
    s.busy = false → decode (commandWordOf value) = .malformed why →
      step (s.facing (.hostWrite 0#4 value)) = .next { s with cmderr := true }

/-- R88: any word written while BUSY = 1 is rejected, the running SEARCH unaltered; so is any command there. -/
def Obligations.CommandWhileBusyIsRejected : Prop :=
  ∀ (s : State), s.busy = true →
    (∀ value : HostValue, step (s.facing (.hostWrite 0#4 value)) = .next { s with cmderr := true }) ∧
    (∀ i : Instr, exec i s = .next { s with cmderr := true })

/-- R31: after a CMD write CMDERR is 1 exactly when the word was rejected, as malformed or because BUSY was 1, which is
when the host broke its duties; no other input but a power-on reset changes it. -/
def Obligations.CmderrReportsTheLastCommand : Prop :=
  ∀ (s t : State) (i : Input), step (s.facing i) = .next t →
    (∀ value, i = .hostWrite 0#4 value →
      (t.cmderr = true ↔ s.busy = true ∨ (decode (commandWordOf value)).isMalformed = true) ∧
      (t.cmderr = true ↔ (s.facing i).hostDisciplined = false)) ∧
    ((∀ value, i ≠ .hostWrite 0#4 value) → i ≠ .powerOn → t.cmderr = s.cmderr)

/-- R32: a write to a read-only register or to an unmapped index is ignored and changes no state. -/
def Obligations.WritesOutsideCmdAreIgnored : Prop :=
  ∀ (s : State) (idx : RegIndex) (value : HostValue), idx ≠ 0#4 →
    step (s.facing (.hostWrite idx value)) = .next s

/-- R32, R33 and R54: what a host read returns for every index, bit by bit, and that it changes no state of the block
(the model's own record of the read apart), so that a second read returns the same. -/
def Obligations.HostReadReturnsTheRegister : Prop :=
  ∀ (s : State) (idx : RegIndex),
    step (s.facing (.hostRead idx)) = .next { s with lastRead := some (idx, s.readReg idx) } ∧
    { s with lastRead := some (idx, s.readReg idx) }.readReg idx = s.readReg idx ∧
    s.readReg 0#4 = 0#64 ∧
    (5 ≤ idx.toNat → s.readReg idx = 0#64) ∧
    (∀ n : Nat, (s.readReg 1#4).getLsbD n =
      if n = 0 then decide (s.phase ≠ .idle)
      else if n = 1 then s.found
      else if n = 2 then s.cmderr
      else if n = 3 then s.terminal
      else false) ∧
    (∀ i : Fin 8, (s.readReg 2#4).extractLsb' (8 * i.val) 8 = s.cand[i.val]) ∧
    (s.readReg 3#4).toNat = s.ld.toNat ∧
    (s.readReg 4#4).toNat = s.lfd.toNat

/-- R34: bit p-1 of CAND is position p of the candidate, for every p in 1..64. -/
def Obligations.CandRegisterHoldsPositions : Prop :=
  ∀ (s : State) (p : Nat), 1 ≤ p → p ≤ 64 → (s.readReg 2#4).getLsbD (p - 1) = candBit s.cand p

/-! RSTATE and TARGET (40_state_commands.md). -/

/-- R102, R103: RSTATE accepted clears SearchState, FOUND and CMDERR and changes nothing else; written while BUSY = 1 it
is rejected. -/
def Obligations.RstateClearsSearchState : Prop :=
  encode .rstate = 0x0001#16 ∧
  ∀ (s : State),
    (s.busy = false → exec .rstate s = .next
      { s with
        cand := #v[0x00#8, 0x00#8, 0x00#8, 0x00#8, 0x00#8, 0x00#8, 0x00#8, 0x00#8]
        ld := 0#7, lfd := 0#4, terminal := false, found := false, cmderr := false }) ∧
    (s.busy = true → exec .rstate s = .next { s with cmderr := true })

/-- R106: TARGET f accepted seeds the search and changes nothing else; written while BUSY = 1 it is rejected. -/
def Obligations.TargetSeedsSearchState : Prop :=
  ∀ (f : Byte),
    encode (.target f) = (f.zeroExtend 16 <<< 8) ||| 0x0002#16 ∧
    ∀ (s : State),
      (s.busy = false → exec (.target f) s = .next
        { s with
          cand := #v[f, 0x00#8, 0x00#8, 0x00#8, 0x00#8, 0x00#8, 0x00#8, 0x00#8]
          ld := 64#7, lfd := 0#4, terminal := false, found := false, cmderr := false }) ∧
      (s.busy = true → exec (.target f) s = .next { s with cmderr := true })

/-- R108: at a discrepancy the SEARCH after TARGET f takes f's bits at positions 1..8, 0 at 9..63 and 1 at 64. -/
def Obligations.TargetReplaysTheFamilyCode : Prop :=
  ∀ (s t : State) (f : Byte) (p : Nat), s.busy = false → 1 ≤ p → p ≤ 64 → exec (.target f) s = .next t →
    walkDirection false false p t.ld.toNat (candBit t.cand p) =
      if p ≤ 8 then f.getLsbD (p - 1) else decide (p = 64)

/-! SEARCH, the accepting step and the search machine (41_search.md). -/

/-- R121: an accepted SEARCH sets FOUND to 0; with terminal = 1 it ends at once, without a transaction and without a
write of SearchState; otherwise it sets lastZero to 0 and BUSY is 1. Nothing else changes; what the second case leaves
in the ghosts `outcome` and `trace` is the model's own (log entries 6 and 7) and is left open here. -/
def Obligations.SearchAcceptance : Prop :=
  ∀ (s : State), s.busy = false →
    (s.terminal = true → exec .search s = .next
      { s with found := false, cmderr := false, outcome := some .exhausted, trace := [] }) ∧
    (s.terminal = false → ∃ t, exec .search s = .next t ∧ t.busy = true ∧
      t = { s with
        found := false, cmderr := false, lastZero := 0#7, phase := .busRst, outcome := t.outcome, trace := t.trace })

/-- R141: phase BUSRST. -/
def Obligations.BusResetPhase : Prop :=
  ∀ (s : State), s.phase = .busRst →
    step (s.facing (.busCompletion false)) = .next
      { s with
        cand := zeroIdent, ld := 0#7, lfd := 0#4, terminal := false, found := false, phase := .idle
        outcome := some .busEmptyOrFaulted, trace := .reset false :: s.trace } ∧
    step (s.facing (.busCompletion true)) = .next
      { s with cmdIdx := 0#3, phase := .cmdBit, trace := .reset true :: s.trace }

/-- R142, R57: phase CMDBIT writes the bits 0,0,0,0,1,1,1,1 of 0xF0, least significant first. -/
def Obligations.CommandBitPhase : Prop :=
  ∀ (s : State) (v : Bool), s.phase = .cmdBit →
    step (s.facing (.busCompletion v)) = .next
      (if s.cmdIdx.toNat < 7 then
        { s with cmdIdx := s.cmdIdx + 1#3, trace := .write (decide (4 ≤ s.cmdIdx.toNat)) :: s.trace }
      else
        { s with pos := 1#7, phase := .rdId, trace := .write (decide (4 ≤ s.cmdIdx.toNat)) :: s.trace })

/-- R143: phase RDID. -/
def Obligations.ReadIdentifierBitPhase : Prop :=
  ∀ (s : State) (v : Bool), s.phase = .rdId →
    step (s.facing (.busCompletion v)) = .next
      { s with idb := v, phase := .rdCmp, trace := .read v :: s.trace }

/-- R144 with every row of R136: phase RDCMP at position p = pos, with c = CandBit(p) and LD as read there. -/
def Obligations.ResolutionTable : Prop :=
  ∀ (s : State) (v : Bool), s.phase = .rdCmp → 1 ≤ s.pos.toNat → s.pos.toNat ≤ 64 →
    (s.idb = true → v = true → step (s.facing (.busCompletion v)) = .next
      { s with
        cand := zeroIdent, ld := 0#7, lfd := 0#4, terminal := false, found := false, phase := .idle, cmpb := true
        outcome := some .busContentionAnomaly, trace := .read v :: s.trace }) ∧
    (s.idb = false → v = true → step (s.facing (.busCompletion v)) = .next
      { s with cmpb := v, dir := false, phase := .wrDir, trace := .read v :: s.trace }) ∧
    (s.idb = true → v = false → step (s.facing (.busCompletion v)) = .next
      { s with cmpb := v, dir := true, phase := .wrDir, trace := .read v :: s.trace }) ∧
    (s.idb = false → v = false →
      ((s.pos.toNat < s.ld.toNat ∧ candBit s.cand s.pos.toNat = false) ∨ s.ld.toNat < s.pos.toNat) →
        step (s.facing (.busCompletion v)) = .next
          { s with
            cmpb := v, dir := false, lastZero := s.pos
            lfd := if s.pos.toNat ≤ 8 then BitVec.ofNat 4 s.pos.toNat else s.lfd
            phase := .wrDir, trace := .read v :: s.trace }) ∧
    (s.idb = false → v = false →
      ((s.pos.toNat < s.ld.toNat ∧ candBit s.cand s.pos.toNat = true) ∨ s.pos.toNat = s.ld.toNat) →
        step (s.facing (.busCompletion v)) = .next
          { s with cmpb := v, dir := true, phase := .wrDir, trace := .read v :: s.trace })

/-- R145 before position 64: the bit is written back and stored, and the walk goes to the next position. -/
def Obligations.WriteDirectionPhase : Prop :=
  ∀ (s : State) (v : Bool), s.phase = .wrDir → s.pos.toNat < 64 →
    step (s.facing (.busCompletion v)) = .next
      { s with
        cand := setCandBit s.cand s.pos.toNat s.dir, pos := s.pos + 1#7, phase := .rdId
        trace := .write s.dir :: s.trace }

/-- R133, R134, R135: the write at position 64 ends the walk, as Found with LD = lastZero and terminal = (lastZero = 0),
or as DegenerateResult with the state cleared, LD and terminal included. -/
def Obligations.WalkCompletion : Prop :=
  ∀ (s : State) (v : Bool), s.phase = .wrDir → s.pos.toNat = 64 → s.terminal = false →
    ((setCandBit s.cand 64 s.dir)[0] = 0x00#8 → step (s.facing (.busCompletion v)) = .next
      { s with
        cand := zeroIdent, ld := 0#7, lfd := 0#4, terminal := false, found := false, phase := .idle
        outcome := some .degenerateResult, trace := .write s.dir :: s.trace }) ∧
    ((setCandBit s.cand 64 s.dir)[0] ≠ 0x00#8 → step (s.facing (.busCompletion v)) = .next
      { s with
        cand := setCandBit s.cand 64 s.dir, ld := s.lastZero, terminal := s.lastZero == 0#7, found := true
        phase := .idle, outcome := some .found, trace := .write s.dir :: s.trace })

/-- R64, R140: a step of the search machine performs exactly the outstanding transaction, with the value the
BitChannel gave it. -/
def Obligations.EngineStepPerformsTheOutstandingTransaction : Prop :=
  ∀ (s : State) (v : Bool), s.busy = true →
    ∃ (t : State) (r : BusRequest) (x : Transaction),
      step (s.facing (.busCompletion v)) = .next t ∧ s.request = some r ∧ t.trace = x :: s.trace ∧
      x = (match r with
        | .reset => .reset v
        | .write b => .write b
        | .read => .read v)

/-- R23, R41, R44, R131, R149: what a step of a running SEARCH leaves alone. CMDERR always; while the SEARCH goes on,
LD, terminal and FOUND too, the candidate but for one position in phase WRDIR, and LFD but in phase RDCMP. -/
def Obligations.EngineStepFrame : Prop :=
  ∀ (s t : State) (v : Bool), s.Inv → s.busy = true → step (s.facing (.busCompletion v)) = .next t →
    t.cmderr = s.cmderr ∧ t.lastRead = s.lastRead ∧ t.inputs = s.inputs ∧
    (t.busy = true →
      t.ld = s.ld ∧ t.terminal = s.terminal ∧ t.found = s.found ∧ t.outcome = s.outcome ∧
      (s.phase ≠ .wrDir → t.cand = s.cand) ∧
      (s.phase = .wrDir → ∀ q, 1 ≤ q → q ≤ 64 →
        candBit t.cand q = if q = s.pos.toNat then s.dir else candBit s.cand q) ∧
      (s.phase ≠ .rdCmp → t.lfd = s.lfd ∧ t.lastZero = s.lastZero) ∧
      (s.phase ≠ .rdId → t.idb = s.idb) ∧
      (s.phase ≠ .rdCmp → t.cmpb = s.cmpb ∧ t.dir = s.dir))

/-- R138 with R170's causes. A SEARCH accepted with terminal = 1 ends Exhausted, SearchState unchanged and FOUND = 0. The
step that ends a running SEARCH ends it with exactly one outcome class, for the cause and with the state of that class. -/
def Obligations.SearchEndsWithOneOutcome : Prop :=
  (∀ (s : State), s.busy = false → s.terminal = true →
    ∃ t, exec .search s = .next t ∧ t.busy = false ∧ t.outcome = some .exhausted ∧ t.cand = s.cand ∧ t.ld = s.ld ∧
      t.lfd = s.lfd ∧ t.terminal = true ∧ t.found = false) ∧
  (∀ (s t : State) (v : Bool), s.Inv → s.busy = true → step (s.facing (.busCompletion v)) = .next t →
    t.busy = false →
      (t.outcome = some .busEmptyOrFaulted ∧ s.phase = .busRst ∧ v = false ∧ t.cleared ∧ t.found = false) ∨
      (t.outcome = some .busContentionAnomaly ∧ s.phase = .rdCmp ∧ s.idb = true ∧ v = true ∧
        t.cleared ∧ t.found = false) ∨
      (t.outcome = some .degenerateResult ∧ s.phase = .wrDir ∧ s.pos.toNat = 64 ∧
        familyByte (setCandBit s.cand 64 s.dir) = 0x00#8 ∧ t.cleared ∧ t.found = false) ∨
      (t.outcome = some .found ∧ s.phase = .wrDir ∧ s.pos.toNat = 64 ∧ familyByte t.cand ≠ 0x00#8 ∧
        t.cand = setCandBit s.cand 64 s.dir ∧ t.ld = s.lastZero ∧ t.lfd = s.lfd ∧
        (t.terminal = true ↔ s.lastZero = 0#7) ∧ t.found = true))

/-- R137: the transactions of one SEARCH, by outcome, and their fixed order. Exhausted performs none. -/
def Obligations.TransactionCounts : Prop :=
  (∀ (s : State), s.busy = false → s.terminal = true →
    ∃ t, exec .search s = .next t ∧ t.outcome = some .exhausted ∧ t.trace = []) ∧
  (∀ (s t : State) (v : Bool), s.Inv → s.busy = true → step (s.facing (.busCompletion v)) = .next t →
    t.busy = false →
      (t.outcome = some .busEmptyOrFaulted → t.trace.length = 1) ∧
      (t.outcome = some .busContentionAnomaly →
        t.trace.length = 3 * s.pos.toNat + 8 ∧ 1 ≤ s.pos.toNat ∧ s.pos.toNat ≤ 64) ∧
      (t.outcome = some .found ∨ t.outcome = some .degenerateResult → t.trace.length = 201) ∧
      ∀ n x, t.trace.reverse[n]? = some x → x.kind =
        if n = 0 then .reset else if n < 9 then .write else if n % 3 = 2 then .write else .read)

/-- R146: for every list of answers, the search machine run on them performs the same transactions as the reference
operation of R120, with the same SearchState, FOUND and outcome, or waits at the same transaction when the answers run
out; and BUSY is 1 between the accepting step and the last. -/
def Obligations.SearchMachineEqualsReference : Prop :=
  ∀ (s : State) (answers : List Bool), s.phase = .idle →
    match refSearch s.walkRegs answers with
    | .finished o r unused =>
      ∃ used, answers = used ++ unused ∧
        (∃ t, run (1 + used.length)
            { s with inputs := commandWrite (encode .search) :: answers.map .busCompletion ++ s.inputs } = .next t ∧
          t.phase = .idle ∧ t.walkRegs = r ∧ t.outcome = some o ∧ t.cmderr = false ∧
          t.inputs = unused.map .busCompletion ++ s.inputs) ∧
        ∀ k, 1 ≤ k → k ≤ used.length → ∃ t, run k
            { s with inputs := commandWrite (encode .search) :: answers.map .busCompletion ++ s.inputs } = .next t ∧
          t.busy = true
    | .stalled r =>
      (∃ t, run (1 + answers.length)
          { s with inputs := commandWrite (encode .search) :: answers.map .busCompletion ++ s.inputs } = .next t ∧
        t.walkRegs = r ∧ t.cmderr = false ∧ t.inputs = s.inputs) ∧
      ∀ k, 1 ≤ k → k ≤ 1 + answers.length → ∃ t, run k
          { s with inputs := commandWrite (encode .search) :: answers.map .busCompletion ++ s.inputs } = .next t ∧
        t.busy = true

/-- R216: on a BitChannel that completes every transaction, a SEARCH from any idle state ends, within the 201 polls of
`System.search`, with an outcome. -/
def Obligations.SearchEndsWhenTransactionsComplete : Prop :=
  ∀ (β : Type) (ch : BitChannel β) (x : System β), x.block.phase = .idle →
    (∀ b r, ∃ b' v, ch.answer b r = some (b', v)) →
      (x.search ch).block.phase = .idle ∧ ∃ o, (x.search ch).block.outcome = some o ∧
        ((x.search ch).block.found = true ↔ o = .found)

/-- R65, R189, R148: while no completion and no power-on reset comes, a running SEARCH keeps its phase and all its
registers for ever, whatever the host writes and reads. -/
def Obligations.StalledSearchWaits : Prop :=
  ∀ (s t : State) (n : Nat), s.busy = true →
    (∀ i ∈ s.inputs, i ≠ .powerOn ∧ ∀ v, i ≠ .busCompletion v) → run n s = .next t →
      t = { s with cmderr := t.cmderr, lastRead := t.lastRead, inputs := t.inputs } ∧ t.busy = true

/-- R147: an idle block has no step but the acceptance of a command: no completion, abandoned answer, read, write
outside CMD or empty wait changes it, and none adds a transaction. -/
def Obligations.IdleBlockNeverTouchesTheBus : Prop :=
  ∀ (s t : State), s.phase = .idle → step s = .next t →
    (t.trace = s.trace ∨ t.trace = []) ∧
    ((∀ v rest, s.inputs ≠ .hostWrite 0#4 v :: rest) → (∀ rest, s.inputs ≠ .powerOn :: rest) →
      t = { s with lastRead := t.lastRead, inputs := s.inputs.tail })

/-! Outcomes and the absence of traps (60_exceptions.md). -/

/-- R178: the block has no trap, exception or fault: every step, of every state, answers a next state. -/
def Obligations.StepNeverStops : Prop :=
  ∀ (s : State), ∃ t, step s = .next t

/-- R182: no event other than a host write to CMD, a BitChannel completion or a power-on reset changes the block's
state. -/
def Obligations.OnlyThreeEventsChangeTheBlock : Prop :=
  ∀ (s t : State) (i : Input), step (s.facing i) = .next t →
    (∃ value, i = .hostWrite 0#4 value) ∨ (∃ v, i = .busCompletion v) ∨ i = .powerOn ∨
      t = { s with lastRead := t.lastRead }

/-- R175, R207: after a SEARCH that reports FOUND = 0, TERMINAL = 1 tells Exhausted from the three failures. -/
def Obligations.TerminalTellsExhaustedFromFailure : Prop :=
  ∀ (β : Type) (ch : BitChannel β) (x : System β), x.block.phase = .idle →
    (x.search ch).block.phase = .idle → (x.search ch).block.found = false →
      ((x.search ch).block.terminal = true ↔ (x.search ch).block.outcome = some .exhausted) ∧
      ((x.search ch).block.terminal = false → (x.search ch).block.cleared)

/-- R207: once terminal = 1 in an idle block, only an accepted RSTATE or TARGET or a power-on reset changes SearchState,
and no transaction is performed. -/
def Obligations.ExhaustedUntilCleared : Prop :=
  ∀ (s t : State) (i : Input), s.phase = .idle → s.terminal = true → step (s.facing i) = .next t →
    (∃ value, i = .hostWrite 0#4 value ∧
      (decode (commandWordOf value) = .valid .rstate ∨ ∃ f, decode (commandWordOf value) = .valid (.target f))) ∨
    i = .powerOn ∨
    (t.phase = .idle ∧ t.terminal = true ∧ t.cand = s.cand ∧ t.ld = s.ld ∧ t.lfd = s.lfd ∧
      (t.trace = s.trace ∨ t.trace = []))

/-! Reset and hazards (70_reset_and_hazards.md), and the invariant (10_state.md R26). -/

/-- R200, R43: what the spec gives for the state after power-on reset. -/
def Obligations.ResetStateIsCleared : Prop :=
  State.reset.cand = #v[0x00#8, 0x00#8, 0x00#8, 0x00#8, 0x00#8, 0x00#8, 0x00#8, 0x00#8] ∧
  State.reset.ld = 0#7 ∧ State.reset.lfd = 0#4 ∧ State.reset.terminal = false ∧
  State.reset.found = false ∧ State.reset.cmderr = false ∧ State.reset.phase = .idle ∧
  State.reset.statusReg = 0x00#8

/-- R201, R202: power-on reset in any state, a running SEARCH included, leaves the state of R200 in one step with no bus
transaction; an answer that comes for the abandoned transaction is discarded. -/
def Obligations.PowerOnResetAbandonsTheSearch : Prop :=
  ∀ (s : State),
    (∃ t, step (s.facing .powerOn) = .next t ∧ t.cleared ∧ t.found = false ∧ t.cmderr = false ∧ t.phase = .idle ∧
      t.trace = [] ∧ t.inputs = s.inputs) ∧
    (∀ v, step (s.facing (.abandonedAnswer v)) = .next s) ∧
    (∀ v, s.phase = .idle → step (s.facing (.busCompletion v)) = .next s)

/-- R203: the reset values of the hidden registers are unobservable. Two idle states that differ in hidden registers
only stay equal in everything else, step by step, on the same inputs; transactions, outcomes and host reads included. -/
def Obligations.HiddenRegistersAreUnobservableFromIdle : Prop :=
  ∀ (s t : State) (n : Nat), s.phase = .idle → s.eraseHidden = t.eraseHidden →
    ∃ s' t', run n s = .next s' ∧ run n t = .next t' ∧ s'.eraseHidden = t'.eraseHidden

/-- R212: a valid result stays in CAND until a command is accepted or the block is reset. -/
def Obligations.ResultStaysUntilACommand : Prop :=
  ∀ (s t : State) (i : Input), s.resultValid = true → step (s.facing i) = .next t →
    (∃ value c, i = .hostWrite 0#4 value ∧ decode (commandWordOf value) = .valid c ∧ t.found = false) ∨
    i = .powerOn ∨
    (t.resultValid = true ∧ t.cand = s.cand)

/-- The invariant of the block holds after reset. -/
def Obligations.ResetMeetsTheInvariant : Prop := State.reset.Inv

/-- Every step keeps the invariant of the block, from every state that meets it. -/
def Obligations.StepKeepsTheInvariant : Prop :=
  ∀ (s t : State), s.Inv → step s = .next t → t.Inv

/-- R26: whatever inputs come after reset, every state reached in which the phase is IDLE has LD in 0..64, LFD in 0..8,
and LD = 0 when terminal = 1. -/
def Obligations.SearchStateInvariantsWhenIdle : Prop :=
  ∀ (inputs : List Input) (n : Nat) (t : State), run n { State.reset with inputs := inputs } = .next t →
    t.phase = .idle → t.ld.toNat ≤ 64 ∧ t.lfd.toNat ≤ 8 ∧ (t.terminal = true → t.ld.toNat = 0)

/-! The source's properties (41_search.md R150 to R157; 40_state_commands.md R105, R109, R110), on the reference bus of
20_memory.md R70 to R76 or, where only some answers matter, on any BitChannel that gives them. -/

/-- R154: with BusReset answering 0, SEARCH from the cleared state ends FOUND = 0 and leaves the cleared state. -/
def Obligations.ZeroDeviceBus : Prop :=
  ∀ (β : Type) (ch : BitChannel β) (x : System β), x.block.phase = .idle → x.block.cleared →
    (∀ b, ∃ b', ch.answer b .reset = some (b', false)) →
      (x.search ch).block.phase = .idle ∧ (x.search ch).block.found = false ∧ (x.search ch).block.cleared ∧
      (x.search ch).block.outcome = some .busEmptyOrFaulted ∧ (x.search ch).block.trace = [.reset false]

/-- R155: with BusReset answering 1 and every BusReadBit answering 1, SEARCH from any state with terminal = 0 ends
FOUND = 0 at position 1 as BusContentionAnomaly, after 11 transactions, with the state cleared. -/
def Obligations.BusShort : Prop :=
  ∀ (β : Type) (ch : BitChannel β) (x : System β), x.block.phase = .idle → x.block.terminal = false →
    (∀ b, ∃ b', ch.answer b .reset = some (b', true)) → (∀ b, ∃ b', ch.answer b .read = some (b', true)) →
    (∀ b d, ∃ b' v, ch.answer b (.write d) = some (b', v)) →
      (x.search ch).block.phase = .idle ∧ (x.search ch).block.found = false ∧ (x.search ch).block.cleared ∧
      (x.search ch).block.outcome = some .busContentionAnomaly ∧ (x.search ch).block.pos = 1#7 ∧
      (x.search ch).block.trace.length = 11

/-- On a stable bus with a device, a SEARCH from any idle state with terminal = 0 walks to one of the attached devices:
it is Found, or Degenerate with a device of family 0x00 attached. No walk aborts (R109 (d), R133). -/
def Obligations.StableWalkEndsOnADevice : Prop :=
  ∀ (x : System RefBus), x.bus.devs ≠ [] → x.bus.devs.Nodup → x.bus.fault = .none → x.block.phase = .idle →
    x.block.terminal = false →
      let y := x.search RefBus.channel
      y.block.phase = .idle ∧ y.block.trace.length = 201 ∧ y.bus.devs = x.bus.devs ∧
      ((y.block.outcome = some .found ∧ y.block.cand ∈ x.bus.devs) ∨
       (y.block.outcome = some .degenerateResult ∧ ∃ d ∈ x.bus.devs, familyByte d = 0x00#8))

/-- R156: after a Found with LD = L > 0 on a stable bus, the returned path takes 0 at L while an attached device that
agrees with it below L has 1 there, and no deeper position of the path is such a fork; after a Found with LD = 0 there
is no such fork at all. -/
def Obligations.LdIsTheDeepestOpenFork : Prop :=
  ∀ (x : System RefBus), x.bus.devs.Nodup → x.bus.fault = .none → x.block.phase = .idle →
    x.block.terminal = false →
      let y := x.search RefBus.channel
      let openFork := fun (p : Nat) => candBit y.block.cand p = false ∧ ∃ d ∈ x.bus.devs,
        candBit d p = true ∧ ∀ q, 1 ≤ q → q < p → candBit d q = candBit y.block.cand q
      y.block.found = true →
        (y.block.ld ≠ 0#7 → openFork y.block.ld.toNat) ∧
        (∀ p, 1 ≤ p → p ≤ 64 → y.block.ld.toNat < p → ¬ openFork p)

/-- R150, R151, R152: from the cleared state, on a stable bus whose devices have distinct identifiers with a non-zero
family byte, repeated SEARCHes return every identifier once in ascending order of the key, the last one sets terminal,
and the next SEARCH, and every later one, finds nothing: Exhausted without a transaction, or BusEmptyOrFaulted when no
device is attached. -/
def Obligations.EnumerationIsCompleteAndOrdered : Prop :=
  ∀ (x : System RefBus), x.bus.devs.Nodup → (∀ d ∈ x.bus.devs, familyByte d ≠ 0x00#8) → x.bus.fault = .none →
    x.block.phase = .idle → x.block.cleared →
      ∃ order : List Ident, order.Perm x.bus.devs ∧
        order.Pairwise (fun a b => enumerationKey a < enumerationKey b) ∧
        (∀ k id, order[k]? = some id →
          let y := (x.searches RefBus.channel (k + 1)).block
          y.phase = .idle ∧ y.found = true ∧ y.cand = id ∧ (y.terminal = true ↔ k + 1 = order.length)) ∧
        (∀ k, order.length < k →
          let y := (x.searches RefBus.channel k).block
          y.phase = .idle ∧ y.found = false ∧
          y.outcome = some (if order = [] then .busEmptyOrFaulted else .exhausted) ∧
          (order ≠ [] → y.trace = []))

/-- R93, R205: ENUMERATE reads exactly the attached identifiers from CAND, each once, in the order of the key. -/
def Obligations.EnumerateReadsEveryIdentifierOnce : Prop :=
  ∀ (x : Session RefBus) (n : Nat), x.sys.bus.devs.Nodup → (∀ d ∈ x.sys.bus.devs, familyByte d ≠ 0x00#8) →
    x.sys.bus.fault = .none → x.sys.block.phase = .idle → x.sys.bus.devs.length < n →
      ∃ order : List Ident, order.Perm x.sys.bus.devs ∧
        order.Pairwise (fun a b => enumerationKey a < enumerationKey b) ∧
        (x.enumerate RefBus.channel n).1 = order.map packIdent

/-- R157: with a device of family 0x00 attached, every SEARCH from the cleared state ends DegenerateResult with the state
cleared again, and ENUMERATE returns no identifier. -/
def Obligations.FamilyZeroDeviceBlocksEnumeration : Prop :=
  ∀ (x : Session RefBus) (z : Ident), z ∈ x.sys.bus.devs → familyByte z = 0x00#8 → x.sys.bus.devs.Nodup →
    x.sys.bus.fault = .none → x.sys.block.phase = .idle →
      (x.sys.block.cleared → ∀ n, 0 < n →
        (x.sys.searches RefBus.channel n).block.outcome = some .degenerateResult ∧
        (x.sys.searches RefBus.channel n).block.found = false ∧
        (x.sys.searches RefBus.channel n).block.cleared) ∧
      (∀ n, (x.enumerate RefBus.channel n).1 = [])

/-- R105: RSTATE then SEARCH gives the same result whatever the block held before, on two stable buses with the same
devices. -/
def Obligations.RstateThenSearchIsIdempotent : Prop :=
  ∀ (x y : System RefBus), x.bus.devs = y.bus.devs → x.bus.fault = .none → y.bus.fault = .none →
    x.block.phase = .idle → y.block.phase = .idle →
      let u := ((x.command (encode .rstate)).search RefBus.channel).block
      let w := ((y.command (encode .rstate)).search RefBus.channel).block
      u.found = w.found ∧ u.cand = w.cand ∧ u.ld = w.ld ∧ u.lfd = w.lfd ∧ u.terminal = w.terminal ∧
      u.outcome = w.outcome ∧ u.trace = w.trace

/-- R110: with exactly one attached device M of family f, TARGET f then SEARCH ends Found with M's identifier if and only
if f is not 0x00, whatever other devices of other families are attached. -/
def Obligations.TargetReturnsTheOneDeviceOfTheFamily : Prop :=
  ∀ (x : System RefBus) (f : Byte) (m : Ident), x.bus.devs.Nodup → x.bus.fault = .none → x.block.phase = .idle →
    m ∈ x.bus.devs → familyByte m = f → (∀ d ∈ x.bus.devs, familyByte d = f → d = m) →
      let y := ((x.command (encode (.target f))).search RefBus.channel).block
      (y.found = true ∧ y.cand = m) ↔ f ≠ 0x00#8

/-- R139 (a): a single device of non-zero family is found from any idle state with terminal = 0, with no discrepancy:
LD = 0 and terminal = 1, and the next SEARCH is Exhausted. -/
def Obligations.SingleDeviceIsFoundThenExhausted : Prop :=
  ∀ (x : System RefBus) (d : Ident), x.bus.devs = [d] → familyByte d ≠ 0x00#8 → x.bus.fault = .none →
    x.block.phase = .idle → x.block.terminal = false →
      let y := x.search RefBus.channel
      y.block.found = true ∧ y.block.cand = d ∧ y.block.ld = 0#7 ∧ y.block.lfd = x.block.lfd ∧
      y.block.terminal = true ∧ (y.search RefBus.channel).block.outcome = some .exhausted
end

