-- ==== Sys2Proof/Laws/Operands.lean ====
section
/-! SUPPORT. Bit positions of an identifier: reading after writing, and identifiers equal bit by bit. -/

namespace Sys2Proof.Machine

theorem getLsbD_setByteBit (x : Byte) (i j : Nat) (b : Bool) (hi : i < 8) (hj : j < 8) :
    (setByteBit x i b).getLsbD j = if j = i then b else x.getLsbD j := by
  have one : (1#8 <<< i).getLsbD j = decide (j = i) := by
    simp only [BitVec.getLsbD_shiftLeft, BitVec.getLsbD_one]
    by_cases h : j = i
    · subst h; simp [hj]
    · simp only [h, decide_false]
      by_cases hlt : j < i
      · simp [hlt]
      · have : j - i ≠ 0 := by omega
        simp [this]
  cases b
  · simp only [setByteBit, Bool.false_eq_true, if_false, BitVec.getLsbD_and, BitVec.getLsbD_not, one, hj]
    by_cases h : j = i <;> simp [h]
  · simp only [setByteBit, if_true, BitVec.getLsbD_or, one]
    by_cases h : j = i <;> simp [h]

theorem byteOf_lt {p : Nat} (h : p ≤ 64) : byteOf p < 8 := by
  unfold byteOf; omega

theorem bitOf_lt (p : Nat) : bitOf p < 8 := by
  unfold bitOf; omega

/-- Two positions are equal when their byte and bit are. -/
theorem position_ext {p q : Nat} (hp : 1 ≤ p) (hq : 1 ≤ q) (hbyte : byteOf p = byteOf q)
    (hbit : bitOf p = bitOf q) : p = q := by
  unfold byteOf at hbyte; unfold bitOf at hbit; omega

theorem candBit_eq (id : Ident) (p : Nat) (h : byteOf p < 8) :
    candBit id p = (id[byteOf p]'h).getLsbD (bitOf p) := by
  simp [candBit, h]

/-- `SetCandBit(p, b)` writes position `p` and leaves the other 63 alone (00_scope.md R14). -/
theorem candBit_setCandBit (id : Ident) (p q : Nat) (b : Bool) (hp : 1 ≤ p) (hp' : p ≤ 64) (hq : 1 ≤ q)
    (hq' : q ≤ 64) : candBit (setCandBit id p b) q = if q = p then b else candBit id q := by
  have hbp := byteOf_lt hp'
  have hbq := byteOf_lt hq'
  rw [candBit_eq _ _ hbq, candBit_eq _ _ hbq]
  unfold setCandBit
  rw [Vector.getElem_setIfInBounds]
  by_cases hbyte : byteOf p = byteOf q
  · rw [if_pos hbyte, getLsbD_setByteBit _ _ _ _ (bitOf_lt p) (bitOf_lt q)]
    by_cases hbit : bitOf q = bitOf p
    · simp [hbit, position_ext hp hq hbyte hbit.symm]
    · have : q ≠ p := fun h => hbit (by rw [h])
      simp [hbit, this, hbyte, hbq]
  · have : q ≠ p := fun h => hbyte (by rw [h])
    simp [hbyte, this]

theorem candBit_setCandBit_self (id : Ident) (p : Nat) (b : Bool) (hp : 1 ≤ p) (hp' : p ≤ 64) :
    candBit (setCandBit id p b) p = b := by
  rw [candBit_setCandBit id p p b hp hp' hp hp', if_pos rfl]

theorem candBit_setCandBit_of_ne (id : Ident) (p q : Nat) (b : Bool) (hp : 1 ≤ p) (hp' : p ≤ 64) (hq : 1 ≤ q)
    (hq' : q ≤ 64) (h : q ≠ p) : candBit (setCandBit id p b) q = candBit id q := by
  rw [candBit_setCandBit id p q b hp hp' hq hq', if_neg h]

/-- Identifiers with the same 64 bits are equal. -/
theorem ident_ext {a b : Ident} (h : ∀ p, 1 ≤ p → p ≤ 64 → candBit a p = candBit b p) : a = b := by
  apply Vector.ext
  intro i hi
  apply BitVec.eq_of_getLsbD_eq
  intro j hj
  have hbyte : byteOf (8 * i + j + 1) = i := by unfold byteOf; omega
  have hbit : bitOf (8 * i + j + 1) = j := by unfold bitOf; omega
  have key := h (8 * i + j + 1) (by omega) (by omega)
  rw [candBit_eq _ _ (by omega), candBit_eq _ _ (by omega)] at key
  simpa only [hbyte, hbit] using key

/-- Every position of the cleared candidate reads 0 (40_state_commands.md R103). -/
@[simp] theorem candBit_zeroIdent (p : Nat) : candBit zeroIdent p = false := by
  unfold candBit zeroIdent
  by_cases h : byteOf p < 8 <;> simp [h]

/-- Byte 0 is 0 exactly when positions 1..8 are. -/
theorem familyByte_eq_zero_iff (id : Ident) :
    familyByte id = 0x00#8 ↔ ∀ p, 1 ≤ p → p ≤ 8 → candBit id p = false := by
  constructor
  · intro h p hp hp'
    have hb : byteOf p = 0 := by unfold byteOf; omega
    rw [candBit_eq _ _ (by omega)]
    simp only [hb]
    have : id[0] = 0x00#8 := h
    simp [this]
  · intro h
    apply BitVec.eq_of_getLsbD_eq
    intro j hj
    have key := h (j + 1) (by omega) (by omega)
    have hb : byteOf (j + 1) = 0 := by unfold byteOf; omega
    have hbit : bitOf (j + 1) = j := by unfold bitOf; omega
    rw [candBit_eq _ _ (by omega)] at key
    simp only [hb, hbit] at key
    simpa [familyByte] using key

/-- The seed of TARGET f holds f's bits at positions 1..8 and zeros above (40_state_commands.md R108). -/
theorem candBit_seededIdent (f : Byte) (p : Nat) (hp : 1 ≤ p) (hp' : p ≤ 64) :
    candBit (seededIdent f) p = if p ≤ 8 then f.getLsbD (p - 1) else false := by
  have hb := byteOf_lt hp'
  rw [candBit_eq _ _ hb]
  by_cases h : p ≤ 8
  · have h0 : byteOf p = 0 := by unfold byteOf; omega
    have hbit : bitOf p = p - 1 := by unfold bitOf; omega
    simp only [h0, hbit, if_pos h]
    rfl
  · have h0 : byteOf p ≠ 0 := by unfold byteOf; omega
    rw [if_neg h]
    obtain ⟨n, hn⟩ : ∃ n, byteOf p = n + 1 := ⟨byteOf p - 1, by omega⟩
    simp only [hn]
    have hn' : n < 7 := by omega
    interval_cases n <;> simp [seededIdent]

/-- A word reaches the command register whole (20_memory.md R53). -/
@[simp] theorem commandWordOf_hostValueOf (w : CommandWord) : commandWordOf (hostValueOf w) = w := by
  apply BitVec.eq_of_getLsbD_eq
  intro i hi
  simp only [commandWordOf, hostValueOf, BitVec.getLsbD_extractLsb', BitVec.truncate_eq_setWidth,
    BitVec.getLsbD_setWidth]
  simp [hi]
  omega

/-- The direction at a discrepancy is 0 for a replayed 0 and above LD, and 1 otherwise (41_search.md R136). -/
theorem forkDirection_eq_false_iff (p ld : Nat) (c : Bool) :
    forkDirection p ld c = false ↔ (p < ld ∧ c = false) ∨ ld < p := by
  unfold forkDirection
  split
  · constructor
    · intro h; exact .inl ⟨‹_›, h⟩
    · rintro (⟨-, h⟩ | h)
      · exact h
      · omega
  · split
    · simp; omega
    · simp; omega

theorem isPendingFork_eq_true_iff (idb cmpb dir : Bool) :
    isPendingFork idb cmpb dir = true ↔ idb = false ∧ cmpb = false ∧ dir = false := by
  cases idb <;> cases cmpb <;> cases dir <;> simp [isPendingFork]

end Sys2Proof.Machine
end

