-- ==== Sys2Proof/Laws/State.lean ====
section
/-! SUPPORT. What each named update of the state leaves in each field. -/

namespace Sys2Proof.Machine

/-! ClearState: `State.clearState`. -/

@[simp] theorem State.clearState_cand (s : State) : s.clearState.cand = zeroIdent := rfl
@[simp] theorem State.clearState_ld (s : State) : s.clearState.ld = 0#7 := rfl
@[simp] theorem State.clearState_lfd (s : State) : s.clearState.lfd = 0#4 := rfl
@[simp] theorem State.clearState_terminal (s : State) : s.clearState.terminal = false := rfl
@[simp] theorem State.clearState_found (s : State) : s.clearState.found = s.found := rfl
@[simp] theorem State.clearState_cmderr (s : State) : s.clearState.cmderr = s.cmderr := rfl
@[simp] theorem State.clearState_phase (s : State) : s.clearState.phase = s.phase := rfl
@[simp] theorem State.clearState_pos (s : State) : s.clearState.pos = s.pos := rfl
@[simp] theorem State.clearState_cmdIdx (s : State) : s.clearState.cmdIdx = s.cmdIdx := rfl
@[simp] theorem State.clearState_idb (s : State) : s.clearState.idb = s.idb := rfl
@[simp] theorem State.clearState_cmpb (s : State) : s.clearState.cmpb = s.cmpb := rfl
@[simp] theorem State.clearState_dir (s : State) : s.clearState.dir = s.dir := rfl
@[simp] theorem State.clearState_lastZero (s : State) : s.clearState.lastZero = s.lastZero := rfl
@[simp] theorem State.clearState_outcome (s : State) : s.clearState.outcome = s.outcome := rfl
@[simp] theorem State.clearState_trace (s : State) : s.clearState.trace = s.trace := rfl
@[simp] theorem State.clearState_lastRead (s : State) : s.clearState.lastRead = s.lastRead := rfl
@[simp] theorem State.clearState_inputs (s : State) : s.clearState.inputs = s.inputs := rfl

/-! A rejected command: `State.rejectCommand`. -/

@[simp] theorem State.rejectCommand_cand (s : State) : s.rejectCommand.cand = s.cand := rfl
@[simp] theorem State.rejectCommand_ld (s : State) : s.rejectCommand.ld = s.ld := rfl
@[simp] theorem State.rejectCommand_lfd (s : State) : s.rejectCommand.lfd = s.lfd := rfl
@[simp] theorem State.rejectCommand_terminal (s : State) : s.rejectCommand.terminal = s.terminal := rfl
@[simp] theorem State.rejectCommand_found (s : State) : s.rejectCommand.found = s.found := rfl
@[simp] theorem State.rejectCommand_cmderr (s : State) : s.rejectCommand.cmderr = true := rfl
@[simp] theorem State.rejectCommand_phase (s : State) : s.rejectCommand.phase = s.phase := rfl
@[simp] theorem State.rejectCommand_pos (s : State) : s.rejectCommand.pos = s.pos := rfl
@[simp] theorem State.rejectCommand_cmdIdx (s : State) : s.rejectCommand.cmdIdx = s.cmdIdx := rfl
@[simp] theorem State.rejectCommand_idb (s : State) : s.rejectCommand.idb = s.idb := rfl
@[simp] theorem State.rejectCommand_cmpb (s : State) : s.rejectCommand.cmpb = s.cmpb := rfl
@[simp] theorem State.rejectCommand_dir (s : State) : s.rejectCommand.dir = s.dir := rfl
@[simp] theorem State.rejectCommand_lastZero (s : State) : s.rejectCommand.lastZero = s.lastZero := rfl
@[simp] theorem State.rejectCommand_outcome (s : State) : s.rejectCommand.outcome = s.outcome := rfl
@[simp] theorem State.rejectCommand_trace (s : State) : s.rejectCommand.trace = s.trace := rfl
@[simp] theorem State.rejectCommand_lastRead (s : State) : s.rejectCommand.lastRead = s.lastRead := rfl
@[simp] theorem State.rejectCommand_inputs (s : State) : s.rejectCommand.inputs = s.inputs := rfl

/-! The end of a SEARCH: `State.finish`. -/

@[simp] theorem State.finish_cand (s : State) (o : SearchOutcome) : (s.finish o).cand = s.cand := rfl
@[simp] theorem State.finish_ld (s : State) (o : SearchOutcome) : (s.finish o).ld = s.ld := rfl
@[simp] theorem State.finish_lfd (s : State) (o : SearchOutcome) : (s.finish o).lfd = s.lfd := rfl
@[simp] theorem State.finish_terminal (s : State) (o : SearchOutcome) : (s.finish o).terminal = s.terminal := rfl
@[simp] theorem State.finish_found (s : State) (o : SearchOutcome) : (s.finish o).found = s.found := rfl
@[simp] theorem State.finish_cmderr (s : State) (o : SearchOutcome) : (s.finish o).cmderr = s.cmderr := rfl
@[simp] theorem State.finish_phase (s : State) (o : SearchOutcome) : (s.finish o).phase = .idle := rfl
@[simp] theorem State.finish_pos (s : State) (o : SearchOutcome) : (s.finish o).pos = s.pos := rfl
@[simp] theorem State.finish_cmdIdx (s : State) (o : SearchOutcome) : (s.finish o).cmdIdx = s.cmdIdx := rfl
@[simp] theorem State.finish_idb (s : State) (o : SearchOutcome) : (s.finish o).idb = s.idb := rfl
@[simp] theorem State.finish_cmpb (s : State) (o : SearchOutcome) : (s.finish o).cmpb = s.cmpb := rfl
@[simp] theorem State.finish_dir (s : State) (o : SearchOutcome) : (s.finish o).dir = s.dir := rfl
@[simp] theorem State.finish_lastZero (s : State) (o : SearchOutcome) : (s.finish o).lastZero = s.lastZero := rfl
@[simp] theorem State.finish_outcome (s : State) (o : SearchOutcome) : (s.finish o).outcome = some o := rfl
@[simp] theorem State.finish_trace (s : State) (o : SearchOutcome) : (s.finish o).trace = s.trace := rfl
@[simp] theorem State.finish_lastRead (s : State) (o : SearchOutcome) : (s.finish o).lastRead = s.lastRead := rfl
@[simp] theorem State.finish_inputs (s : State) (o : SearchOutcome) : (s.finish o).inputs = s.inputs := rfl

/-! A failed SEARCH: `State.failSearch`. -/

@[simp] theorem State.failSearch_cand (s : State) (o : SearchOutcome) : (s.failSearch o).cand = zeroIdent := rfl
@[simp] theorem State.failSearch_ld (s : State) (o : SearchOutcome) : (s.failSearch o).ld = 0#7 := rfl
@[simp] theorem State.failSearch_lfd (s : State) (o : SearchOutcome) : (s.failSearch o).lfd = 0#4 := rfl
@[simp] theorem State.failSearch_terminal (s : State) (o : SearchOutcome) : (s.failSearch o).terminal = false := rfl
@[simp] theorem State.failSearch_found (s : State) (o : SearchOutcome) : (s.failSearch o).found = false := rfl
@[simp] theorem State.failSearch_cmderr (s : State) (o : SearchOutcome) : (s.failSearch o).cmderr = s.cmderr := rfl
@[simp] theorem State.failSearch_phase (s : State) (o : SearchOutcome) : (s.failSearch o).phase = .idle := rfl
@[simp] theorem State.failSearch_pos (s : State) (o : SearchOutcome) : (s.failSearch o).pos = s.pos := rfl
@[simp] theorem State.failSearch_cmdIdx (s : State) (o : SearchOutcome) : (s.failSearch o).cmdIdx = s.cmdIdx := rfl
@[simp] theorem State.failSearch_idb (s : State) (o : SearchOutcome) : (s.failSearch o).idb = s.idb := rfl
@[simp] theorem State.failSearch_cmpb (s : State) (o : SearchOutcome) : (s.failSearch o).cmpb = s.cmpb := rfl
@[simp] theorem State.failSearch_dir (s : State) (o : SearchOutcome) : (s.failSearch o).dir = s.dir := rfl
@[simp] theorem State.failSearch_lastZero (s : State) (o : SearchOutcome) : (s.failSearch o).lastZero = s.lastZero := rfl
@[simp] theorem State.failSearch_outcome (s : State) (o : SearchOutcome) : (s.failSearch o).outcome = some o := rfl
@[simp] theorem State.failSearch_trace (s : State) (o : SearchOutcome) : (s.failSearch o).trace = s.trace := rfl
@[simp] theorem State.failSearch_lastRead (s : State) (o : SearchOutcome) : (s.failSearch o).lastRead = s.lastRead := rfl
@[simp] theorem State.failSearch_inputs (s : State) (o : SearchOutcome) : (s.failSearch o).inputs = s.inputs := rfl

/-! A completed transaction: `State.record`. -/

@[simp] theorem State.record_cand (s : State) (t : Transaction) : (s.record t).cand = s.cand := rfl
@[simp] theorem State.record_ld (s : State) (t : Transaction) : (s.record t).ld = s.ld := rfl
@[simp] theorem State.record_lfd (s : State) (t : Transaction) : (s.record t).lfd = s.lfd := rfl
@[simp] theorem State.record_terminal (s : State) (t : Transaction) : (s.record t).terminal = s.terminal := rfl
@[simp] theorem State.record_found (s : State) (t : Transaction) : (s.record t).found = s.found := rfl
@[simp] theorem State.record_cmderr (s : State) (t : Transaction) : (s.record t).cmderr = s.cmderr := rfl
@[simp] theorem State.record_phase (s : State) (t : Transaction) : (s.record t).phase = s.phase := rfl
@[simp] theorem State.record_pos (s : State) (t : Transaction) : (s.record t).pos = s.pos := rfl
@[simp] theorem State.record_cmdIdx (s : State) (t : Transaction) : (s.record t).cmdIdx = s.cmdIdx := rfl
@[simp] theorem State.record_idb (s : State) (t : Transaction) : (s.record t).idb = s.idb := rfl
@[simp] theorem State.record_cmpb (s : State) (t : Transaction) : (s.record t).cmpb = s.cmpb := rfl
@[simp] theorem State.record_dir (s : State) (t : Transaction) : (s.record t).dir = s.dir := rfl
@[simp] theorem State.record_lastZero (s : State) (t : Transaction) : (s.record t).lastZero = s.lastZero := rfl
@[simp] theorem State.record_outcome (s : State) (t : Transaction) : (s.record t).outcome = s.outcome := rfl
@[simp] theorem State.record_trace (s : State) (t : Transaction) : (s.record t).trace = t :: s.trace := rfl
@[simp] theorem State.record_lastRead (s : State) (t : Transaction) : (s.record t).lastRead = s.lastRead := rfl
@[simp] theorem State.record_inputs (s : State) (t : Transaction) : (s.record t).inputs = s.inputs := rfl

/-! A host read: `State.hostRead`. -/

@[simp] theorem State.hostRead_cand (s : State) (idx : RegIndex) : (s.hostRead idx).cand = s.cand := rfl
@[simp] theorem State.hostRead_ld (s : State) (idx : RegIndex) : (s.hostRead idx).ld = s.ld := rfl
@[simp] theorem State.hostRead_lfd (s : State) (idx : RegIndex) : (s.hostRead idx).lfd = s.lfd := rfl
@[simp] theorem State.hostRead_terminal (s : State) (idx : RegIndex) : (s.hostRead idx).terminal = s.terminal := rfl
@[simp] theorem State.hostRead_found (s : State) (idx : RegIndex) : (s.hostRead idx).found = s.found := rfl
@[simp] theorem State.hostRead_cmderr (s : State) (idx : RegIndex) : (s.hostRead idx).cmderr = s.cmderr := rfl
@[simp] theorem State.hostRead_phase (s : State) (idx : RegIndex) : (s.hostRead idx).phase = s.phase := rfl
@[simp] theorem State.hostRead_pos (s : State) (idx : RegIndex) : (s.hostRead idx).pos = s.pos := rfl
@[simp] theorem State.hostRead_cmdIdx (s : State) (idx : RegIndex) : (s.hostRead idx).cmdIdx = s.cmdIdx := rfl
@[simp] theorem State.hostRead_idb (s : State) (idx : RegIndex) : (s.hostRead idx).idb = s.idb := rfl
@[simp] theorem State.hostRead_cmpb (s : State) (idx : RegIndex) : (s.hostRead idx).cmpb = s.cmpb := rfl
@[simp] theorem State.hostRead_dir (s : State) (idx : RegIndex) : (s.hostRead idx).dir = s.dir := rfl
@[simp] theorem State.hostRead_lastZero (s : State) (idx : RegIndex) : (s.hostRead idx).lastZero = s.lastZero := rfl
@[simp] theorem State.hostRead_outcome (s : State) (idx : RegIndex) : (s.hostRead idx).outcome = s.outcome := rfl
@[simp] theorem State.hostRead_trace (s : State) (idx : RegIndex) : (s.hostRead idx).trace = s.trace := rfl
@[simp] theorem State.hostRead_lastRead (s : State) (idx : RegIndex) : (s.hostRead idx).lastRead = some (idx, s.readReg idx) := rfl
@[simp] theorem State.hostRead_inputs (s : State) (idx : RegIndex) : (s.hostRead idx).inputs = s.inputs := rfl

/-! The effect of RSTATE: `State.clearSearch`. -/

@[simp] theorem State.clearSearch_cand (s : State) : s.clearSearch.cand = zeroIdent := rfl
@[simp] theorem State.clearSearch_ld (s : State) : s.clearSearch.ld = 0#7 := rfl
@[simp] theorem State.clearSearch_lfd (s : State) : s.clearSearch.lfd = 0#4 := rfl
@[simp] theorem State.clearSearch_terminal (s : State) : s.clearSearch.terminal = false := rfl
@[simp] theorem State.clearSearch_found (s : State) : s.clearSearch.found = false := rfl
@[simp] theorem State.clearSearch_cmderr (s : State) : s.clearSearch.cmderr = s.cmderr := rfl
@[simp] theorem State.clearSearch_phase (s : State) : s.clearSearch.phase = s.phase := rfl
@[simp] theorem State.clearSearch_pos (s : State) : s.clearSearch.pos = s.pos := rfl
@[simp] theorem State.clearSearch_cmdIdx (s : State) : s.clearSearch.cmdIdx = s.cmdIdx := rfl
@[simp] theorem State.clearSearch_idb (s : State) : s.clearSearch.idb = s.idb := rfl
@[simp] theorem State.clearSearch_cmpb (s : State) : s.clearSearch.cmpb = s.cmpb := rfl
@[simp] theorem State.clearSearch_dir (s : State) : s.clearSearch.dir = s.dir := rfl
@[simp] theorem State.clearSearch_lastZero (s : State) : s.clearSearch.lastZero = s.lastZero := rfl
@[simp] theorem State.clearSearch_outcome (s : State) : s.clearSearch.outcome = s.outcome := rfl
@[simp] theorem State.clearSearch_trace (s : State) : s.clearSearch.trace = s.trace := rfl
@[simp] theorem State.clearSearch_lastRead (s : State) : s.clearSearch.lastRead = s.lastRead := rfl
@[simp] theorem State.clearSearch_inputs (s : State) : s.clearSearch.inputs = s.inputs := rfl

/-! The effect of TARGET: `State.seedSearch`. -/

@[simp] theorem State.seedSearch_cand (f : Byte) (s : State) : (State.seedSearch f s).cand = seededIdent f := rfl
@[simp] theorem State.seedSearch_ld (f : Byte) (s : State) : (State.seedSearch f s).ld = Config.targetLd := rfl
@[simp] theorem State.seedSearch_lfd (f : Byte) (s : State) : (State.seedSearch f s).lfd = 0#4 := rfl
@[simp] theorem State.seedSearch_terminal (f : Byte) (s : State) : (State.seedSearch f s).terminal = false := rfl
@[simp] theorem State.seedSearch_found (f : Byte) (s : State) : (State.seedSearch f s).found = false := rfl
@[simp] theorem State.seedSearch_cmderr (f : Byte) (s : State) : (State.seedSearch f s).cmderr = s.cmderr := rfl
@[simp] theorem State.seedSearch_phase (f : Byte) (s : State) : (State.seedSearch f s).phase = s.phase := rfl
@[simp] theorem State.seedSearch_pos (f : Byte) (s : State) : (State.seedSearch f s).pos = s.pos := rfl
@[simp] theorem State.seedSearch_cmdIdx (f : Byte) (s : State) : (State.seedSearch f s).cmdIdx = s.cmdIdx := rfl
@[simp] theorem State.seedSearch_idb (f : Byte) (s : State) : (State.seedSearch f s).idb = s.idb := rfl
@[simp] theorem State.seedSearch_cmpb (f : Byte) (s : State) : (State.seedSearch f s).cmpb = s.cmpb := rfl
@[simp] theorem State.seedSearch_dir (f : Byte) (s : State) : (State.seedSearch f s).dir = s.dir := rfl
@[simp] theorem State.seedSearch_lastZero (f : Byte) (s : State) : (State.seedSearch f s).lastZero = s.lastZero := rfl
@[simp] theorem State.seedSearch_outcome (f : Byte) (s : State) : (State.seedSearch f s).outcome = s.outcome := rfl
@[simp] theorem State.seedSearch_trace (f : Byte) (s : State) : (State.seedSearch f s).trace = s.trace := rfl
@[simp] theorem State.seedSearch_lastRead (f : Byte) (s : State) : (State.seedSearch f s).lastRead = s.lastRead := rfl
@[simp] theorem State.seedSearch_inputs (f : Byte) (s : State) : (State.seedSearch f s).inputs = s.inputs := rfl

/-! The resolution of a bit pair: `State.resolvePair`. -/

@[simp] theorem State.resolvePair_cand (s : State) : s.resolvePair.cand = s.cand := rfl
@[simp] theorem State.resolvePair_ld (s : State) : s.resolvePair.ld = s.ld := rfl
@[simp] theorem State.resolvePair_lfd (s : State) :
    s.resolvePair.lfd = if s.pendingForkHere = true ∧ s.pos ≤ 8#7 then s.pos.truncate 4 else s.lfd := rfl
@[simp] theorem State.resolvePair_terminal (s : State) : s.resolvePair.terminal = s.terminal := rfl
@[simp] theorem State.resolvePair_found (s : State) : s.resolvePair.found = s.found := rfl
@[simp] theorem State.resolvePair_cmderr (s : State) : s.resolvePair.cmderr = s.cmderr := rfl
@[simp] theorem State.resolvePair_phase (s : State) : s.resolvePair.phase = .wrDir := rfl
@[simp] theorem State.resolvePair_pos (s : State) : s.resolvePair.pos = s.pos := rfl
@[simp] theorem State.resolvePair_cmdIdx (s : State) : s.resolvePair.cmdIdx = s.cmdIdx := rfl
@[simp] theorem State.resolvePair_idb (s : State) : s.resolvePair.idb = s.idb := rfl
@[simp] theorem State.resolvePair_cmpb (s : State) : s.resolvePair.cmpb = s.cmpb := rfl
@[simp] theorem State.resolvePair_dir (s : State) : s.resolvePair.dir = s.directionHere := rfl
@[simp] theorem State.resolvePair_lastZero (s : State) :
    s.resolvePair.lastZero = if s.pendingForkHere then s.pos else s.lastZero := rfl
@[simp] theorem State.resolvePair_outcome (s : State) : s.resolvePair.outcome = s.outcome := rfl
@[simp] theorem State.resolvePair_trace (s : State) : s.resolvePair.trace = s.trace := rfl
@[simp] theorem State.resolvePair_lastRead (s : State) : s.resolvePair.lastRead = s.lastRead := rfl
@[simp] theorem State.resolvePair_inputs (s : State) : s.resolvePair.inputs = s.inputs := rfl

/-! The write-back and store: `State.storeDir`. -/

@[simp] theorem State.storeDir_cand (s : State) : s.storeDir.cand = setCandBit s.cand s.pos.toNat s.dir := rfl
@[simp] theorem State.storeDir_ld (s : State) : s.storeDir.ld = s.ld := rfl
@[simp] theorem State.storeDir_lfd (s : State) : s.storeDir.lfd = s.lfd := rfl
@[simp] theorem State.storeDir_terminal (s : State) : s.storeDir.terminal = s.terminal := rfl
@[simp] theorem State.storeDir_found (s : State) : s.storeDir.found = s.found := rfl
@[simp] theorem State.storeDir_cmderr (s : State) : s.storeDir.cmderr = s.cmderr := rfl
@[simp] theorem State.storeDir_phase (s : State) : s.storeDir.phase = s.phase := rfl
@[simp] theorem State.storeDir_pos (s : State) : s.storeDir.pos = s.pos := rfl
@[simp] theorem State.storeDir_cmdIdx (s : State) : s.storeDir.cmdIdx = s.cmdIdx := rfl
@[simp] theorem State.storeDir_idb (s : State) : s.storeDir.idb = s.idb := rfl
@[simp] theorem State.storeDir_cmpb (s : State) : s.storeDir.cmpb = s.cmpb := rfl
@[simp] theorem State.storeDir_dir (s : State) : s.storeDir.dir = s.dir := rfl
@[simp] theorem State.storeDir_lastZero (s : State) : s.storeDir.lastZero = s.lastZero := rfl
@[simp] theorem State.storeDir_outcome (s : State) : s.storeDir.outcome = s.outcome := rfl
@[simp] theorem State.storeDir_trace (s : State) : s.storeDir.trace = .write s.dir :: s.trace := rfl
@[simp] theorem State.storeDir_lastRead (s : State) : s.storeDir.lastRead = s.lastRead := rfl
@[simp] theorem State.storeDir_inputs (s : State) : s.storeDir.inputs = s.inputs := rfl

/-! An input placed first: `State.facing`. -/

@[simp] theorem State.facing_cand (s : State) (i : Input) : (s.facing i).cand = s.cand := rfl
@[simp] theorem State.facing_ld (s : State) (i : Input) : (s.facing i).ld = s.ld := rfl
@[simp] theorem State.facing_lfd (s : State) (i : Input) : (s.facing i).lfd = s.lfd := rfl
@[simp] theorem State.facing_terminal (s : State) (i : Input) : (s.facing i).terminal = s.terminal := rfl
@[simp] theorem State.facing_found (s : State) (i : Input) : (s.facing i).found = s.found := rfl
@[simp] theorem State.facing_cmderr (s : State) (i : Input) : (s.facing i).cmderr = s.cmderr := rfl
@[simp] theorem State.facing_phase (s : State) (i : Input) : (s.facing i).phase = s.phase := rfl
@[simp] theorem State.facing_pos (s : State) (i : Input) : (s.facing i).pos = s.pos := rfl
@[simp] theorem State.facing_cmdIdx (s : State) (i : Input) : (s.facing i).cmdIdx = s.cmdIdx := rfl
@[simp] theorem State.facing_idb (s : State) (i : Input) : (s.facing i).idb = s.idb := rfl
@[simp] theorem State.facing_cmpb (s : State) (i : Input) : (s.facing i).cmpb = s.cmpb := rfl
@[simp] theorem State.facing_dir (s : State) (i : Input) : (s.facing i).dir = s.dir := rfl
@[simp] theorem State.facing_lastZero (s : State) (i : Input) : (s.facing i).lastZero = s.lastZero := rfl
@[simp] theorem State.facing_outcome (s : State) (i : Input) : (s.facing i).outcome = s.outcome := rfl
@[simp] theorem State.facing_trace (s : State) (i : Input) : (s.facing i).trace = s.trace := rfl
@[simp] theorem State.facing_lastRead (s : State) (i : Input) : (s.facing i).lastRead = s.lastRead := rfl
@[simp] theorem State.facing_inputs (s : State) (i : Input) : (s.facing i).inputs = i :: s.inputs := rfl

/-! Power-on reset: `State.powerOnReset`. -/

@[simp] theorem State.powerOnReset_cand (s : State) : s.powerOnReset.cand = State.reset.cand := rfl
@[simp] theorem State.powerOnReset_ld (s : State) : s.powerOnReset.ld = State.reset.ld := rfl
@[simp] theorem State.powerOnReset_lfd (s : State) : s.powerOnReset.lfd = State.reset.lfd := rfl
@[simp] theorem State.powerOnReset_terminal (s : State) : s.powerOnReset.terminal = State.reset.terminal := rfl
@[simp] theorem State.powerOnReset_found (s : State) : s.powerOnReset.found = State.reset.found := rfl
@[simp] theorem State.powerOnReset_cmderr (s : State) : s.powerOnReset.cmderr = State.reset.cmderr := rfl
@[simp] theorem State.powerOnReset_phase (s : State) : s.powerOnReset.phase = State.reset.phase := rfl
@[simp] theorem State.powerOnReset_pos (s : State) : s.powerOnReset.pos = State.reset.pos := rfl
@[simp] theorem State.powerOnReset_cmdIdx (s : State) : s.powerOnReset.cmdIdx = State.reset.cmdIdx := rfl
@[simp] theorem State.powerOnReset_idb (s : State) : s.powerOnReset.idb = State.reset.idb := rfl
@[simp] theorem State.powerOnReset_cmpb (s : State) : s.powerOnReset.cmpb = State.reset.cmpb := rfl
@[simp] theorem State.powerOnReset_dir (s : State) : s.powerOnReset.dir = State.reset.dir := rfl
@[simp] theorem State.powerOnReset_lastZero (s : State) : s.powerOnReset.lastZero = State.reset.lastZero := rfl
@[simp] theorem State.powerOnReset_outcome (s : State) : s.powerOnReset.outcome = State.reset.outcome := rfl
@[simp] theorem State.powerOnReset_trace (s : State) : s.powerOnReset.trace = State.reset.trace := rfl
@[simp] theorem State.powerOnReset_lastRead (s : State) : s.powerOnReset.lastRead = State.reset.lastRead := rfl
@[simp] theorem State.powerOnReset_inputs (s : State) : s.powerOnReset.inputs = s.inputs := rfl

/-! The flags and registers, which are functions of the fields. -/

theorem State.busy_eq_false_iff (s : State) : s.busy = false ↔ s.phase = .idle := by
  simp [State.busy]

theorem State.busy_eq_true_iff (s : State) : s.busy = true ↔ s.phase ≠ .idle := by
  simp [State.busy]

theorem State.busy_congr {s t : State} (h : s.phase = t.phase) : s.busy = t.busy := by
  simp [State.busy, h]

end Sys2Proof.Machine
end

