-- ==== Sys2Proof/Laws/Ops.lean ====
section
/-! SUPPORT. Everything the acceptance check, the commands and `submit` can do. -/

namespace Sys2Proof.Machine

/-- An idle block performs the command with CMDERR cleared (30_encoding.md R86). -/
theorem State.accept_of_idle {s : State} (h : s.phase = .idle) (effect : State → State) :
    s.accept effect = effect { s with cmderr := false } := by
  simp [State.accept, State.busy, h]

/-- A busy block rejects it (30_encoding.md R88). -/
theorem State.accept_of_busy {s : State} (h : s.phase ≠ .idle) (effect : State → State) :
    s.accept effect = s.rejectCommand := by
  simp [State.accept, State.busy, h]

/-- What an accepted command does to the state. -/
def acceptedEffect : Instr → State → State
  | .rstate => State.clearSearch
  | .target f => State.seedSearch f
  | .search => State.startSearch

/-- Every meaning is an acceptance check around the command's effect. -/
theorem exec_eq_accept (i : Instr) (s : State) : exec i s = .next (s.accept (acceptedEffect i)) := by
  cases i <;> rfl

/-- A word submitted to CMD: performed when it decodes and the block is idle, rejected otherwise. -/
theorem submit_cases (w : CommandWord) (s : State) :
    (∃ i, decode w = .valid i ∧ s.phase = .idle ∧ submit w s = .next (acceptedEffect i { s with cmderr := false })) ∨
    (((∃ why, decode w = .malformed why) ∨ s.phase ≠ .idle) ∧ submit w s = .next s.rejectCommand) := by
  unfold submit
  cases hd : decode w with
  | malformed why => exact .inr ⟨.inl ⟨why, rfl⟩, rfl⟩
  | valid i =>
    by_cases h : s.phase = .idle
    · exact .inl ⟨i, rfl, h, by simp only [exec_eq_accept, State.accept_of_idle h]⟩
    · exact .inr ⟨.inr h, by simp only [exec_eq_accept, State.accept_of_busy h]⟩

/-- An accepted SEARCH ends at once when terminal = 1 and starts its walk otherwise (41_search.md R121). -/
theorem State.startSearch_cases (s : State) :
    (s.terminal = true ∧ s.startSearch =
      { s with found := false, trace := [], phase := .idle, outcome := some .exhausted }) ∨
    (s.terminal = false ∧ s.startSearch =
      { s with found := false, lastZero := 0#7, phase := .busRst, outcome := none, trace := [] }) := by
  cases h : s.terminal
  · exact .inr ⟨rfl, by simp [State.startSearch, h]⟩
  · exact .inl ⟨rfl, by simp [State.startSearch, h, State.finish]⟩

/-- No accepted command touches CMDERR beyond its acceptance, the host's last read or what is pending. -/
theorem acceptedEffect_frame (i : Instr) (s : State) :
    (acceptedEffect i s).cmderr = s.cmderr ∧ (acceptedEffect i s).lastRead = s.lastRead ∧
      (acceptedEffect i s).inputs = s.inputs := by
  cases i with
  | rstate => exact ⟨rfl, rfl, rfl⟩
  | target f => exact ⟨rfl, rfl, rfl⟩
  | search => rcases s.startSearch_cases with ⟨-, h⟩ | ⟨-, h⟩ <;> simp [acceptedEffect, h]

end Sys2Proof.Machine
end

