-- ==== Sys2Proof/Laws/PerInstr.lean ====
section
/-! SUPPORT. Statements about every command as syntax, one lemma per constructor. -/

/-- The word of a command has the fields that carry it, and they are well formed (30_encoding.md R80 to R83). -/
def Sys2Proof.Laws.EncodeWellFormed.Statement (i : Sys2Proof.Instr) : Prop :=
  Sys2Proof.splitWord (Sys2Proof.encode i) = i.fields ∧ i.wellFormed = true

/-- Splitting a joined word gives back its fields. -/
theorem Sys2Proof.Laws.splitWord_joinWord (c : Sys2Proof.CommandFields) :
    Sys2Proof.splitWord (Sys2Proof.joinWord c) = c := by
  obtain ⟨a, r, o⟩ := c
  simp only [Sys2Proof.joinWord, Sys2Proof.splitWord]
  congr 1 <;>
  · apply BitVec.eq_of_getLsbD_eq
    intro j hj
    simp only [BitVec.getLsbD_append, BitVec.getLsbD_extractLsb']
    interval_cases j <;> simp

theorem Sys2Proof.Laws.EncodeWellFormed.rstate : Sys2Proof.Laws.EncodeWellFormed.Statement .rstate :=
  ⟨Sys2Proof.Laws.splitWord_joinWord _, by decide⟩

theorem Sys2Proof.Laws.EncodeWellFormed.target (f : Sys2Proof.Byte) :
    Sys2Proof.Laws.EncodeWellFormed.Statement (.target f) :=
  ⟨Sys2Proof.Laws.splitWord_joinWord _, by
    simp [Sys2Proof.Instr.wellFormed, Sys2Proof.Instr.fields, Sys2Proof.CommandFields.wellFormed,
      Sys2Proof.CommandFields.rsvZero, Sys2Proof.CommandFields.opAssigned, Sys2Proof.CommandFields.argAllowed]⟩

theorem Sys2Proof.Laws.EncodeWellFormed.search : Sys2Proof.Laws.EncodeWellFormed.Statement .search :=
  ⟨Sys2Proof.Laws.splitWord_joinWord _, by decide⟩
end

