-- ==== Sys2Proof/Laws/Search.lean ====
section
/-! SUPPORT. Everything one step of the search machine can do, phase by phase, and what it leaves alone. -/

namespace Sys2Proof.Machine

theorem State.engineStep_idle {s : State} (h : s.phase = .idle) (v : Bool) : s.engineStep v = s := by
  simp [State.engineStep, h]

theorem State.engineStep_busRst {s : State} (h : s.phase = .busRst) (v : Bool) : s.engineStep v = s.busRstStep v := by
  simp [State.engineStep, h]

theorem State.engineStep_cmdBit {s : State} (h : s.phase = .cmdBit) (v : Bool) : s.engineStep v = s.cmdBitStep := by
  simp [State.engineStep, h]

theorem State.engineStep_rdId {s : State} (h : s.phase = .rdId) (v : Bool) : s.engineStep v = s.rdIdStep v := by
  simp [State.engineStep, h]

theorem State.engineStep_rdCmp {s : State} (h : s.phase = .rdCmp) (v : Bool) : s.engineStep v = s.rdCmpStep v := by
  simp [State.engineStep, h]

theorem State.engineStep_wrDir {s : State} (h : s.phase = .wrDir) (v : Bool) : s.engineStep v = s.wrDirStep := by
  simp [State.engineStep, h]

/-- The end of a walk: DegenerateResult with the state cleared, or Found (41_search.md R135). -/
theorem State.completeWalk_cases (s : State) :
    (familyByte s.cand = 0x00#8 ∧ s.completeWalk = s.failSearch .degenerateResult) ∨
    (familyByte s.cand ≠ 0x00#8 ∧ s.completeWalk =
      { s with ld := s.lastZero, terminal := s.terminal || s.lastZero == 0#7, found := true,
               phase := .idle, outcome := some .found }) := by
  by_cases h : familyByte s.cand = 0x00#8
  · exact .inl ⟨h, by simp [State.completeWalk, h, State.failSearch, State.clearState, State.finish]⟩
  · exact .inr ⟨h, by simp [State.completeWalk, h, State.finish]⟩

/-- The search machine never touches CMDERR, the host's last read or what is pending. -/
theorem State.engineStep_frame (s : State) (v : Bool) :
    (s.engineStep v).cmderr = s.cmderr ∧ (s.engineStep v).lastRead = s.lastRead ∧
      (s.engineStep v).inputs = s.inputs := by
  cases h : s.phase with
  | idle => simp [State.engineStep_idle h]
  | busRst => rw [State.engineStep_busRst h]; cases v <;> simp [State.busRstStep]
  | cmdBit => rw [State.engineStep_cmdBit h]; unfold State.cmdBitStep; split <;> simp
  | rdId => simp [State.engineStep_rdId h, State.rdIdStep]
  | rdCmp => rw [State.engineStep_rdCmp h]; unfold State.rdCmpStep; split <;> simp
  | wrDir =>
    rw [State.engineStep_wrDir h]; unfold State.wrDirStep
    split
    · simp
    · rcases s.storeDir.completeWalk_cases with ⟨-, hc⟩ | ⟨-, hc⟩ <;> simp [hc]

/-- The direction resolved from a pair that is not (1,1), read as 41_search.md R136's table. -/
theorem walkDirection_eq_false_iff (idb cmpb : Bool) (p ld : Nat) (c : Bool) (h : ¬(idb = true ∧ cmpb = true)) :
    walkDirection idb cmpb p ld c = false ↔
      (idb = false ∧ cmpb = true) ∨ (idb = false ∧ cmpb = false ∧ ((p < ld ∧ c = false) ∨ ld < p)) := by
  unfold walkDirection
  cases idb <;> cases cmpb <;> simp_all [forkDirection_eq_false_iff]

end Sys2Proof.Machine
end

