-- ==== Sys2Proof/Laws/Step.lean ====
section
/-! SUPPORT. Everything a step can do, said once, and runs of several steps. -/

namespace Sys2Proof.Machine

/-- With no input pending the block waits (41_search.md R147; 60_exceptions.md R189). -/
theorem step_of_no_input {s : State} (h : s.inputs = []) : step s = .next s := by
  simp [step, advance, h]

/-- The next input is delivered to the state without it. -/
theorem step_of_input {s : State} {i : Input} {rest : List Input} (h : s.inputs = i :: rest) :
    step s = deliver i { s with inputs := rest } := by
  simp [step, advance, h]

/-- The same, with the input placed first. -/
theorem step_facing (s : State) (i : Input) : step (s.facing i) = deliver i s := rfl

/-- A CMD write submits its word. -/
theorem step_facing_commandWrite (s : State) (w : CommandWord) : step (s.facing (commandWrite w)) = submit w s := by
  simp [step_facing, deliver, hostWrite, commandWrite]

/-- A completion is one step of the search machine. -/
theorem step_facing_busCompletion (s : State) (v : Bool) :
    step (s.facing (.busCompletion v)) = .next (s.engineStep v) := rfl

/-- What delivering an input can do: a submitted command, an ignored input, a host read, an Engine step, or a
power-on reset. -/
theorem deliver_cases (i : Input) (s : State) :
    (∃ value, i = .hostWrite Config.cmdIndex value ∧ deliver i s = submit (commandWordOf value) s) ∨
    (((∃ idx value, i = .hostWrite idx value ∧ idx ≠ Config.cmdIndex) ∨ ∃ v, i = .abandonedAnswer v) ∧
      deliver i s = .next s) ∨
    (∃ idx, i = .hostRead idx ∧ deliver i s = .next (s.hostRead idx)) ∨
    (∃ v, i = .busCompletion v ∧ deliver i s = .next (s.engineStep v)) ∨
    (i = .powerOn ∧ deliver i s = .next s.powerOnReset) := by
  cases i with
  | hostWrite idx value =>
    by_cases h : idx = Config.cmdIndex
    · subst h; exact .inl ⟨value, rfl, by simp [deliver, hostWrite]⟩
    · exact .inr (.inl ⟨.inl ⟨idx, value, rfl, h⟩, by simp [deliver, hostWrite, h]⟩)
  | hostRead idx => exact .inr (.inr (.inl ⟨idx, rfl, rfl⟩))
  | busCompletion v => exact .inr (.inr (.inr (.inl ⟨v, rfl, rfl⟩)))
  | abandonedAnswer v => exact .inr (.inl ⟨.inr ⟨v, rfl⟩, rfl⟩)
  | powerOn => exact .inr (.inr (.inr (.inr ⟨rfl, rfl⟩)))

/-- Delivering an input never stops the machine. -/
theorem deliver_next (i : Input) (s : State) : ∃ t, deliver i s = .next t := by
  rcases deliver_cases i s with ⟨value, -, h⟩ | ⟨-, h⟩ | ⟨idx, -, h⟩ | ⟨v, -, h⟩ | ⟨-, h⟩
  · rcases submit_cases (commandWordOf value) s with ⟨_, -, -, hs⟩ | ⟨-, hs⟩ <;> exact ⟨_, h.trans hs⟩
  all_goals exact ⟨_, h⟩

/-- Splitting a run. -/
theorem run_add (m n : Nat) (s t : State) (h : run m s = .next t) : run (m + n) s = run n t := by
  induction m generalizing s with
  | zero => cases h; simp
  | succ m ih =>
    rw [Nat.add_right_comm]
    simp only [run] at h ⊢
    cases hs : step s with
    | next u => rw [hs] at h; exact ih u h
    | fault f => rw [hs] at h; cases h
    | refused r => rw [hs] at h; cases h

/-- `run` is the run of the machine behind the host's interface. -/
theorem run_eq_core_run (n : Nat) (s : State) : run n s = Host.Core.run Sys2Proof.core n s := by
  induction n generalizing s with
  | zero => rfl
  | succ n ih =>
    have h : Host.Core.step Sys2Proof.core s = step s := rfl
    simp only [run, Host.Core.run, h]
    cases step s with
    | next t => exact ih t
    | fault f => rfl
    | refused r => rfl

/-- One input fed to a block is the step that takes it. -/
theorem State.feed_eq {s t : State} {i : Input} (h : step (s.facing i) = .next t) : s.feed i = t := by
  simp [State.feed, h]

theorem State.feed_busCompletion (s : State) (v : Bool) : s.feed (.busCompletion v) = s.engineStep v :=
  State.feed_eq (step_facing_busCompletion s v)

/-- An idle block performs a command fed to it. -/
theorem State.feed_command {s : State} (h : s.phase = .idle) (i : Instr) (hd : decode (encode i) = .valid i) :
    s.feed (commandWrite (encode i)) = acceptedEffect i { s with cmderr := false } := by
  apply State.feed_eq
  rw [step_facing_commandWrite, submit, hd]
  simp only [exec_eq_accept, State.accept_of_idle h]

end Sys2Proof.Machine
end

