-- ==== Sys2Proof/Laws/ReferenceBus.lean ====
section
/-! SUPPORT. The block on the fault-free reference bus, said once: the opening of a SEARCH, and what the three
transactions at one position do. -/

namespace Sys2Proof.Machine

/-- A transaction that the bus completes is one Engine step. -/
theorem System.transact_of_answer {β : Type} {ch : BitChannel β} {x : System β} {r : BusRequest} {bus' : β} {v : Bool}
    (hr : x.block.request = some r) (ha : ch.answer x.bus r = some (bus', v)) :
    x.transact ch = { block := x.block.engineStep v, bus := bus' } := by
  simp [System.transact, hr, ha, State.feed_busCompletion]

/-- An idle block performs no transaction. -/
theorem System.transact_of_idle {β : Type} {ch : BitChannel β} {x : System β} (h : x.block.phase = .idle) :
    x.transact ch = x := by
  simp [System.transact, State.request, h]

theorem System.wait_of_idle {β : Type} {ch : BitChannel β} {x : System β} (h : x.block.phase = .idle) (n : Nat) :
    x.wait ch n = x := by
  cases n <;> simp [System.wait, State.busy, h]

theorem System.wait_of_busy {β : Type} {ch : BitChannel β} {x : System β} (h : x.block.phase ≠ .idle) (n : Nat) :
    x.wait ch (n + 1) = (x.transact ch).wait ch n := by
  simp [System.wait, State.busy, h]

/-- A SEARCH submitted to an idle block with terminal = 0 leaves it in BUSRST, the bus untouched. -/
theorem System.command_search_of_idle {β : Type} (x : System β) (h : x.block.phase = .idle)
    (ht : x.block.terminal = false) :
    x.command (encode .search) =
      { x with block := { x.block with
          cmderr := false, found := false, lastZero := 0#7, phase := .busRst, outcome := none, trace := [] } } := by
  have hd : decode (encode .search) = .valid .search := by decide
  simp [System.command, State.feed_command h .search hd, acceptedEffect, State.startSearch, ht]

/-- The bus reset when a device is attached (20_memory.md R71; 41_search.md R141). -/
theorem refBus_reset (x : System RefBus) (hp : x.block.phase = .busRst) (hd : x.bus.devs ≠ [])
    (hf : x.bus.fault = .none) :
    x.transact RefBus.channel =
      { block := { x.block with cmdIdx := 0#3, phase := .cmdBit, trace := .reset true :: x.block.trace }
        bus := { x.bus with part := x.bus.devs, q := 1, k := 0, mode := .command [] } } := by
  have hr : x.block.request = some .reset := by simp [State.request, hp]
  have ha : RefBus.channel.answer x.bus .reset =
      some ({ x.bus with part := x.bus.devs, q := 1, k := 0, mode := .command [] }, true) := by
    simp [RefBus.channel, RefBus.onReset, hf, hd]
  rw [System.transact_of_answer hr ha, State.engineStep_busRst hp]
  simp [State.busRstStep, State.record]

/-- One bit of the command byte that is not the last (41_search.md R142; 20_memory.md R72). -/
theorem refBus_commandBit (x : System RefBus) (bits : List Bool) (hp : x.block.phase = .cmdBit)
    (hm : x.bus.mode = .command bits) (hl : bits.length < 7) (hi : x.block.cmdIdx < 7#3) :
    x.transact RefBus.channel =
      { block := { x.block with
          cmdIdx := x.block.cmdIdx + 1#3, trace := .write (searchCmdBit x.block.cmdIdx) :: x.block.trace }
        bus := { x.bus with mode := .command (searchCmdBit x.block.cmdIdx :: bits) } } := by
  have hr : x.block.request = some (.write (searchCmdBit x.block.cmdIdx)) := by simp [State.request, hp]
  have ha : RefBus.channel.answer x.bus (.write (searchCmdBit x.block.cmdIdx)) =
      some ({ x.bus with mode := .command (searchCmdBit x.block.cmdIdx :: bits) }, false) := by
    simp [RefBus.channel, RefBus.onWrite, RefBus.onCommandBit, hm, hl]
  rw [System.transact_of_answer hr ha, State.engineStep_cmdBit hp]
  simp [State.cmdBitStep, State.record, hi]

/-- The last bit of the command byte 0xF0: the devices begin the search (20_memory.md R72). -/
theorem refBus_lastCommandBit (x : System RefBus) (hp : x.block.phase = .cmdBit)
    (hm : x.bus.mode = .command [true, true, true, false, false, false, false]) (hi : x.block.cmdIdx = 7#3) :
    x.transact RefBus.channel =
      { block := { x.block with pos := 1#7, phase := .rdId, trace := .write true :: x.block.trace }
        bus := { x.bus with mode := .searching } } := by
  have hb : searchCmdBit x.block.cmdIdx = true := by rw [hi]; decide
  have hr : x.block.request = some (.write true) := by simp [State.request, hp, hb]
  have hc : commandByte [true, true, true, true, false, false, false, false] = Config.searchCmd.toNat := by decide
  have ha : RefBus.channel.answer x.bus (.write true) = some ({ x.bus with mode := .searching }, false) := by
    simp [RefBus.channel, RefBus.onWrite, RefBus.onCommandBit, hm, hc]
  rw [System.transact_of_answer hr ha, State.engineStep_cmdBit hp]
  simp [State.cmdBitStep, State.record, hi]
  decide

/-- The opening of a SEARCH on a bus with a device: nine transactions, after which the walk stands at position 1 with
every device participating (41_search.md R122, R123; 20_memory.md R71, R72). -/
theorem refBus_opening (x : System RefBus) (hp : x.block.phase = .busRst) (hd : x.bus.devs ≠ [])
    (hf : x.bus.fault = .none) (n : Nat) :
    x.wait RefBus.channel (n + 9) =
      System.wait RefBus.channel n
        { block := { x.block with
            cmdIdx := 7#3, pos := 1#7, phase := .rdId
            trace := .write true :: .write true :: .write true :: .write true :: .write false :: .write false ::
              .write false :: .write false :: .reset true :: x.block.trace }
          bus := { x.bus with part := x.bus.devs, q := 1, k := 0, mode := .searching } } := by
  have b0 : searchCmdBit 0#3 = false := by decide
  have b1 : searchCmdBit 1#3 = false := by decide
  have b2 : searchCmdBit 2#3 = false := by decide
  have b3 : searchCmdBit 3#3 = false := by decide
  have b4 : searchCmdBit 4#3 = true := by decide
  have b5 : searchCmdBit 5#3 = true := by decide
  have b6 : searchCmdBit 6#3 = true := by decide
  rw [System.wait_of_busy (by simp [hp]), refBus_reset x hp hd hf]
  rw [System.wait_of_busy (by simp), refBus_commandBit _ [] rfl rfl (by decide) (by simp)]
  simp only [b0, BitVec.reduceAdd]
  rw [System.wait_of_busy (by simp), refBus_commandBit _ [false] rfl rfl (by decide) (by simp)]
  simp only [b1, BitVec.reduceAdd]
  rw [System.wait_of_busy (by simp), refBus_commandBit _ [false, false] rfl rfl (by decide) (by simp)]
  simp only [b2, BitVec.reduceAdd]
  rw [System.wait_of_busy (by simp), refBus_commandBit _ [false, false, false] rfl rfl (by decide) (by simp)]
  simp only [b3, BitVec.reduceAdd]
  rw [System.wait_of_busy (by simp), refBus_commandBit _ [false, false, false, false] rfl rfl (by decide) (by simp)]
  simp only [b4, BitVec.reduceAdd]
  rw [System.wait_of_busy (by simp),
    refBus_commandBit _ [true, false, false, false, false] rfl rfl (by decide) (by simp)]
  simp only [b5, BitVec.reduceAdd]
  rw [System.wait_of_busy (by simp),
    refBus_commandBit _ [true, true, false, false, false, false] rfl rfl (by decide) (by simp)]
  simp only [b6, BitVec.reduceAdd]
  rw [System.wait_of_busy (by simp), refBus_lastCommandBit _ rfl rfl rfl]

/-- The pair read at position `q`: all participants have 1 there, all have 0, or both values occur
(20_memory.md R73). -/
def pairAt (part : List Ident) (q : Nat) : Bool × Bool :=
  (wiredAnd part (fun id => candBit id q), wiredAnd part (fun id => !candBit id q))

/-- The pair (1,1) is read only when no device participates (20_memory.md R73). -/
theorem pairAt_ne_anomaly {part : List Ident} (h : part ≠ []) (q : Nat) :
    ¬((pairAt part q).1 = true ∧ (pairAt part q).2 = true) := by
  obtain ⟨d, ds, rfl⟩ := List.exists_cons_of_ne_nil h
  cases hb : candBit d q <;> simp [pairAt, wiredAnd, hb]

/-- The two reads at one position while some device participates (20_memory.md R73; 41_search.md R143, R144). -/
theorem refBus_pair (x : System RefBus) (hp : x.block.phase = .rdId) (hm : x.bus.mode = .searching)
    (hf : x.bus.fault = .none) (hk : x.bus.k = 0) (hpart : x.bus.part ≠ []) :
    (x.transact RefBus.channel).transact RefBus.channel =
      { block := State.resolvePair { x.block with
          idb := (pairAt x.bus.part x.bus.q).1, cmpb := (pairAt x.bus.part x.bus.q).2, phase := .rdCmp
          trace := .read (pairAt x.bus.part x.bus.q).2 :: .read (pairAt x.bus.part x.bus.q).1 :: x.block.trace }
        bus := { x.bus with k := 2 } } := by
  have hr : x.block.request = some .read := by simp [State.request, hp]
  have ha : RefBus.channel.answer x.bus .read =
      some ({ x.bus with k := 1 }, (pairAt x.bus.part x.bus.q).1) := by
    simp [RefBus.channel, RefBus.onRead, RefBus.forcedHigh, RefBus.slotLevel, hm, hf, hk, pairAt]
  rw [System.transact_of_answer hr ha, State.engineStep_rdId hp]
  have hr' : (State.rdIdStep (pairAt x.bus.part x.bus.q).1 x.block).request = some .read := rfl
  have ha' : RefBus.channel.answer { x.bus with k := 1 } .read =
      some ({ x.bus with k := 2 }, (pairAt x.bus.part x.bus.q).2) := by
    simp [RefBus.channel, RefBus.onRead, RefBus.forcedHigh, RefBus.slotLevel, hm, hf, pairAt]
  rw [System.transact_of_answer hr' ha', State.engineStep_rdCmp rfl]
  have hne := pairAt_ne_anomaly hpart x.bus.q
  have hidb : (State.rdIdStep (pairAt x.bus.part x.bus.q).1 x.block).idb = (pairAt x.bus.part x.bus.q).1 := rfl
  rw [State.rdCmpStep, hidb, if_neg (by rw [Bool.and_eq_true]; exact hne)]
  rfl

/-- The write-back at one position: the block stores the direction and the devices that disagree drop out
(20_memory.md R74; 41_search.md R145). -/
theorem refBus_direction (x : System RefBus) (hp : x.block.phase = .wrDir) (hm : x.bus.mode = .searching) :
    x.transact RefBus.channel = { block := x.block.wrDirStep, bus := x.bus.onDirection x.block.dir } := by
  have hr : x.block.request = some (.write x.block.dir) := by simp [State.request, hp]
  have ha : RefBus.channel.answer x.bus (.write x.block.dir) = some (x.bus.onDirection x.block.dir, false) := by
    simp [RefBus.channel, RefBus.onWrite, hm]
  rw [System.transact_of_answer hr ha, State.engineStep_wrDir hp]

/-- Some participant agrees with the direction taken, so the walk never loses its last device (20_memory.md R73). -/
theorem participant_follows {part : List Ident} {q ld : Nat} {c : Bool} (h : part ≠ []) :
    part.filter (fun id => candBit id q == walkDirection (pairAt part q).1 (pairAt part q).2 q ld c) ≠ [] := by
  intro hnil
  have hnone : ∀ d ∈ part, candBit d q ≠ walkDirection (pairAt part q).1 (pairAt part q).2 q ld c := by
    intro d hd heq
    have : d ∈ part.filter (fun id => candBit id q == walkDirection (pairAt part q).1 (pairAt part q).2 q ld c) :=
      List.mem_filter.2 ⟨hd, by simpa using heq⟩
    rw [hnil] at this
    cases this
  generalize hdir : walkDirection (pairAt part q).1 (pairAt part q).2 q ld c = dir at hnone
  have hall : ∀ d ∈ part, candBit d q = !dir := by
    intro d hd
    have := hnone d hd
    revert this
    cases candBit d q <;> cases dir <;> simp
  have h1 : (pairAt part q).1 = !dir := by
    cases dir
    · simpa [pairAt, wiredAnd] using hall
    · obtain ⟨d, ds, rfl⟩ := List.exists_cons_of_ne_nil h
      simp [pairAt, wiredAnd, hall d (by simp)]
  have h2 : (pairAt part q).2 = dir := by
    cases dir
    · obtain ⟨d, ds, rfl⟩ := List.exists_cons_of_ne_nil h
      simp [pairAt, wiredAnd, hall d (by simp)]
    · simpa [pairAt, wiredAnd] using hall
  rw [h1, h2] at hdir
  cases dir <;> simp [walkDirection] at hdir

end Sys2Proof.Machine
end

