-- ==== Sys2Proof/Tests/Slice0.lean ====
section
/-! SUPPORT. The model's own tests. Expected results are the spec's: 95_test_vectors.md and the worked examples of
30_encoding.md, 40_state_commands.md and 41_search.md. The witnesses at the end show states that meet the hypotheses of
each obligation. -/

namespace Sys2Proof.Tests

open Sys2Proof Sys2Proof.Machine

/-- The next state of a step that has one. -/
def nextOf (o : Host.Outcome State Fault Refusal) : Option State :=
  match o with
  | .next s => some s
  | .fault _ => none
  | .refused _ => none

/-! Well-formedness: one ill-formed term for each check. -/

theorem test_wf_refuses_rsv : ({ arg := 0x28#8, rsv := 1#4, op := 2#4 } : CommandFields).wellFormed = false := by decide

theorem test_wf_refuses_op : ({ arg := 0x00#8, rsv := 0#4, op := 4#4 } : CommandFields).wellFormed = false := by decide

theorem test_wf_refuses_arg : ({ arg := 0x01#8, rsv := 0#4, op := 3#4 } : CommandFields).wellFormed = false := by decide

/-! Decoding: each command's word written bit by bit (30_encoding.md R89), and the rejected words of
95_test_vectors.md 2.1. -/

theorem test_decode_rstate : decode 0b0000000000000001#16 = .valid .rstate := by decide

theorem test_decode_target : decode 0b0010100000000010#16 = .valid (.target 0b00101000#8) := by decide

theorem test_decode_search : decode 0b0000000000000011#16 = .valid .search := by decide

theorem test_decode_rejects :
    [0x0000#16, 0x0004#16, 0x000F#16, 0x0012#16, 0x28F2#16, 0x0101#16, 0x8003#16, 0xFFFF#16].map decode =
      [.malformed .reservedOp, .malformed .reservedOp, .malformed .reservedOp, .malformed .reservedField,
       .malformed .reservedField, .malformed .argument, .malformed .argument, .malformed .reservedField] := by decide

theorem test_decodeTableWord : decodeTableWord 16 0xFF02 = some (.target 0xFF#8) := by decide

/-! Commands from reset and from the worked examples. -/

/-- The start of 40_state_commands.md R102's worked example (V10). -/
def beforeV10 : State :=
  { State.reset with
    cand := #v[0x28, 0xAA, 0x01, 0x00, 0x00, 0x00, 0x00, 0x11], ld := 9, lfd := 4, found := true }

theorem test_rstate_v10 :
    nextOf (step (beforeV10.withFetchWord 16 0x0001)) = some State.reset := by decide

theorem test_target_v6 :
    nextOf (step (State.reset.withFetchWord 16 0x2802)) =
      some { State.reset with cand := #v[0x28, 0, 0, 0, 0, 0, 0, 0], ld := 64 } := by decide

theorem test_search_starts_v25 :
    (nextOf (step (State.reset.withFetchWord 16 0x0003))).map (fun s => (s.statusReg, s.request)) =
      some (0x01#8, some .reset) := by decide

theorem test_search_exhausted_v3a :
    (nextOf (step ({ State.reset with terminal := true, found := true }.withFetchWord 16 0x0003))).map
      (fun s => (s.statusReg, s.outcome, s.trace)) = some (0x08#8, some .exhausted, []) := by decide

/-- A rejected word leaves STATUS 0x06 beside a result (95_test_vectors.md 2.1). -/
theorem test_malformed_sets_cmderr :
    (nextOf (step (beforeV10.facing (commandWrite 0x28F2#16)))).map State.statusReg = some 0x06#8 := by decide

/-- CAND of V3's device (95_test_vectors.md 2.5). -/
theorem test_cand_packing_v3 :
    packIdent #v[0x28, 0xFF, 0x4C, 0x1A, 0x01, 0x16, 0x03, 0x9E] = 0x9E0316011A4CFF28#64 := by decide

/-- The order key of D1 (95_test_vectors.md). -/
theorem test_key_d1 :
    enumerationKey #v[0x28, 0xAA, 0x01, 0x00, 0x00, 0x00, 0x00, 0x11] = 0x1455800000000088 := by decide +kernel

/-- The outcome codes of 60_exceptions.md R170. -/
theorem test_outcome_codes :
    [SearchOutcome.found, .exhausted, .busEmptyOrFaulted, .busContentionAnomaly, .degenerateResult].map
      SearchOutcome.code = [0, 1, 2, 3, 4] := by decide

/-! One position (95_test_vectors.md 2.4), each row the step of phase RDCMP. -/

/-- A block about to read the complement bit, with the row's entry values. -/
def rowState (p ld lz : BitVec 7) (c : Bool) (lfd : BitVec 4) (idb : Bool) : State :=
  { State.reset with
    cand := setCandBit zeroIdent p.toNat c, ld := ld, lfd := lfd, lastZero := lz, idb := idb, pos := p, phase := .rdCmp }

/-- The row's results: dir, lastZero and LFD, or the abort. -/
def rowResult (s : State) (cmpb : Bool) : Option (Option (Bool × BitVec 7 × BitVec 4)) :=
  (nextOf (step (s.facing (.busCompletion cmpb)))).map
    (fun t => if t.busy then some (t.dir, t.lastZero, t.lfd) else none)

theorem test_rows_without_discrepancy :
    rowResult (rowState 5 0 0 false 0 true) true = some none ∧
    rowResult (rowState 5 0 0 true 0 false) true = some (some (false, 0, 0)) ∧
    rowResult (rowState 5 0 0 false 0 true) false = some (some (true, 0, 0)) := by decide

theorem test_rows_with_discrepancy :
    [rowState 5 0 3 true 3 false, rowState 5 9 0 false 2 false, rowState 5 9 0 true 2 false,
     rowState 5 5 0 false 2 false, rowState 8 0 0 false 0 false, rowState 9 0 0 false 4 false,
     rowState 64 0 9 false 4 false, rowState 64 64 0 false 0 false].map (fun s => rowResult s false) =
      [some (some (false, 5, 5)), some (some (false, 5, 5)), some (some (true, 0, 2)), some (some (true, 0, 2)),
       some (some (false, 8, 8)), some (some (false, 9, 4)), some (some (false, 64, 4)), some (some (true, 0, 0))] := by
  decide

/-! The assembler (30_encoding.md R91). -/

theorem test_assemble_target :
    assembleLine ['t', 'a', 'r', 'g', 'e', 't', ' ', '0', 'x', '2', '8', ' ', ';', 'f'] =
      .op (.command (.target 0x28#8)) := by decide

theorem test_assemble_rejects_256 :
    assembleLine ['T', 'A', 'R', 'G', 'E', 'T', ' ', '2', '5', '6'] = .rejected := by decide

/-! Witnesses: states and operands that meet the hypotheses of each obligation, every clause of it included. -/

/-- A transaction of the kind a SEARCH performs `n`-th, reading 0s and writing 0s during the walk. -/
def sampleTransaction (n : Nat) : Transaction :=
  match expectedKind n with
  | .reset => .reset true
  | .write => .write (decide (5 ≤ n ∧ n ≤ 8))
  | .read => .read false

/-- The first `n` of them, newest first. -/
def sampleTrace (n : Nat) : List Transaction := ((List.range n).map sampleTransaction).reverse

/-- A walk at position `p` in the given phase, after `done` transactions. -/
def walkAt (phase : Phase) (p : BitVec 7) (done : Nat) (idb : Bool) (cand : Ident) : State :=
  { State.reset with phase := phase, pos := p, idb := idb, cand := cand, trace := sampleTrace done }

theorem sampleTransaction_kind (n : Nat) : (sampleTransaction n).kind = expectedKind n := by
  unfold sampleTransaction
  cases expectedKind n <;> rfl

/-- A walk state meets the invariant when its counts do. -/
theorem walkAt_inv {phase : Phase} {p : BitVec 7} {done : Nat} {idb : Bool} {cand : Ident}
    (hp : 1 ≤ p.toNat ∧ p.toNat ≤ 64) (hd : done = (walkAt phase p done idb cand).completedTransactions)
    (hbound : done ≤ 201) (hidb : phase = .wrDir → idb = false)
    (hopen : (sampleTrace done).reverse.take 9 <+: openingTransactions) : (walkAt phase p done idb cand).Inv := by
  have hlen : (sampleTrace done).length = done := by simp [sampleTrace]
  constructor
  · exact Nat.zero_le _
  · exact Nat.zero_le _
  · exact fun h => absurd h (by simp [walkAt, State.reset])
  · exact fun _ => rfl
  · exact fun _ => rfl
  · exact fun h => absurd h (by simp [walkAt, State.reset])
  · exact fun h => absurd h (by simp [walkAt, State.reset])
  · exact fun _ => hp
  · exact fun _ => Nat.zero_le _
  · rintro h ⟨-, h'⟩; exact absurd h' (by simp [walkAt, State.reset])
  · intro h h'; exact absurd (hidb h) (fun e => h' (by simp [walkAt, State.reset, e]))
  · exact hlen.trans hd
  · exact hlen.trans_le hbound
  · rw [show (walkAt phase p done idb cand).trace = sampleTrace done from rfl, hlen]
    simp [sampleTrace, Function.comp_def, sampleTransaction_kind]
  · exact fun _ => hopen

/-- A SEARCH from reset waiting for its bus reset. -/
def atBusRst : State := { State.reset with phase := .busRst }

theorem atBusRst_inv : atBusRst.Inv := by
  constructor <;> decide

/-- An idle block holding a found identifier. -/
def afterFound : State := { beforeV10 with outcome := some .found }

theorem witness_reset_inv : State.reset.Inv := by
  constructor <;> decide

theorem witness_StepRunsTheDecodedCommand :
    ({ State.reset with inputs := [.hostWrite 0#4 0xFF02#64] } : State).inputs = .hostWrite 0#4 0xFF02#64 :: [] ∧
    decode (commandWordOf 0xFF02#64) = .valid (.target 0xFF#8) := by decide

theorem witness_MalformedWordOnlySetsCmderr :
    State.reset.busy = false ∧ decode (commandWordOf 0x0013#64) = .malformed .reservedField := by decide

/-- CommandWhileBusyIsRejected, and the busy clauses of RstateClearsSearchState and TargetSeedsSearchState. -/
theorem witness_CommandWhileBusyIsRejected : atBusRst.busy = true := by decide

/-- CmderrReportsTheLastCommand: a rejected CMD write, and an input that is none. -/
theorem witness_CmderrReportsTheLastCommand :
    (nextOf (step (State.reset.facing (.hostWrite 0#4 0x0013#64)))).map State.cmderr = some true ∧
    (nextOf (step (State.reset.facing (.hostWrite 0#4 0x0001#64)))).map State.cmderr = some false ∧
    (nextOf (step (State.reset.facing (.hostRead 1#4)))).map State.cmderr = some false := by decide

theorem witness_WritesOutsideCmdAreIgnored : (1#4 : RegIndex) ≠ 0#4 ∧ (15#4 : RegIndex) ≠ 0#4 := by decide

theorem witness_HostReadReturnsTheRegister : 5 ≤ (5#4 : RegIndex).toNat ∧ 5 ≤ (15#4 : RegIndex).toNat := by decide

/-- The idle clauses of RstateClearsSearchState and TargetSeedsSearchState, and both clauses of SearchAcceptance. -/
theorem witness_commands_when_idle :
    State.reset.busy = false ∧ State.reset.terminal = false ∧
    ({ State.reset with terminal := true } : State).busy = false := by decide

theorem witness_TargetReplaysTheFamilyCode :
    (nextOf (exec (.target 0x28#8) State.reset)).isSome = true ∧ State.reset.busy = false := by decide

theorem witness_BusResetPhase : atBusRst.phase = .busRst := by decide

theorem witness_CommandBitPhase :
    ({ atBusRst with phase := .cmdBit, cmdIdx := 6#3 } : State).cmdIdx.toNat < 7 ∧
    ¬ ({ atBusRst with phase := .cmdBit, cmdIdx := 7#3 } : State).cmdIdx.toNat < 7 := by decide

theorem witness_ReadIdentifierBitPhase : (walkAt .rdId 1 9 false zeroIdent).phase = .rdId := by decide

/-- Every clause of ResolutionTable, at positions 1 and 64 where its range ends and at LD where its cases meet. -/
theorem witness_ResolutionTable :
    (walkAt .rdCmp 1 10 true zeroIdent).phase = .rdCmp ∧ (walkAt .rdCmp 64 199 false zeroIdent).phase = .rdCmp ∧
    (rowState 64 64 0 false 0 false).pos.toNat = (rowState 64 64 0 false 0 false).ld.toNat ∧
    (rowState 64 63 0 false 0 false).ld.toNat < (rowState 64 63 0 false 0 false).pos.toNat ∧
    ((rowState 1 2 0 false 0 false).pos.toNat < (rowState 1 2 0 false 0 false).ld.toNat ∧
      candBit (rowState 1 2 0 false 0 false).cand 1 = false) ∧
    ((rowState 1 2 0 true 0 false).pos.toNat < (rowState 1 2 0 true 0 false).ld.toNat ∧
      candBit (rowState 1 2 0 true 0 false).cand 1 = true) := by decide

theorem witness_WriteDirectionPhase :
    (walkAt .wrDir 63 197 false zeroIdent).phase = .wrDir ∧
    (walkAt .wrDir 63 197 false zeroIdent).pos.toNat < 64 := by decide

/-- Both clauses of WalkCompletion. -/
theorem witness_WalkCompletion :
    (walkAt .wrDir 64 200 false zeroIdent).phase = .wrDir ∧ (walkAt .wrDir 64 200 false zeroIdent).pos.toNat = 64 ∧
    (walkAt .wrDir 64 200 false zeroIdent).terminal = false ∧
    (setCandBit (walkAt .wrDir 64 200 false zeroIdent).cand 64 false)[0] = 0x00#8 ∧
    (setCandBit (walkAt .wrDir 64 200 false (seededIdent 0x28#8)).cand 64 false)[0] ≠ 0x00#8 := by decide

/-- EngineStepPerformsTheOutstandingTransaction and EngineStepFrame, in a phase that stays busy, before each of the
frame's clauses. -/
theorem witness_EngineStepFrame :
    (walkAt .rdId 1 9 false zeroIdent).Inv ∧ (walkAt .rdCmp 64 199 false zeroIdent).Inv ∧
    (walkAt .wrDir 63 197 false zeroIdent).Inv ∧
    [walkAt .rdId 1 9 false zeroIdent, walkAt .rdCmp 64 199 false zeroIdent,
      walkAt .wrDir 63 197 false zeroIdent].map
        (fun s => (s.busy, (nextOf (step (s.facing (.busCompletion false)))).map State.busy)) =
      [(true, some true), (true, some true), (true, some true)] :=
  ⟨walkAt_inv (by decide) (by decide) (by decide) (by decide) (by decide),
    walkAt_inv (by decide) (by decide) (by decide) (by decide) (by decide),
    walkAt_inv (by decide) (by decide) (by decide) (by decide) (by decide), by decide⟩

/-- SearchEndsWithOneOutcome and TransactionCounts: one ending step for each outcome of a running SEARCH, at positions 1
and 64. -/
theorem witness_SearchEndsWithOneOutcome :
    atBusRst.Inv ∧ (walkAt .rdCmp 1 10 true zeroIdent).Inv ∧ (walkAt .rdCmp 64 199 true zeroIdent).Inv ∧
    (walkAt .wrDir 64 200 false zeroIdent).Inv ∧ (walkAt .wrDir 64 200 false (seededIdent 0x28#8)).Inv ∧
    [(atBusRst, false), (walkAt .rdCmp 1 10 true zeroIdent, true), (walkAt .rdCmp 64 199 true zeroIdent, true),
      (walkAt .wrDir 64 200 false zeroIdent, false), (walkAt .wrDir 64 200 false (seededIdent 0x28#8), false)].map
        (fun sv => (sv.1.busy, (nextOf (step (sv.1.facing (.busCompletion sv.2)))).map
          (fun t => (t.busy, t.outcome, t.trace.length)))) =
      [(true, some (false, some .busEmptyOrFaulted, 1)), (true, some (false, some .busContentionAnomaly, 11)),
       (true, some (false, some .busContentionAnomaly, 200)), (true, some (false, some .degenerateResult, 201)),
       (true, some (false, some .found, 201))] :=
  ⟨atBusRst_inv, walkAt_inv (by decide) (by decide) (by decide) (by decide) (by decide),
    walkAt_inv (by decide) (by decide) (by decide) (by decide) (by decide),
    walkAt_inv (by decide) (by decide) (by decide) (by decide) (by decide),
    walkAt_inv (by decide) (by decide) (by decide) (by decide) (by decide), by decide +kernel⟩

/-- How a reference operation stands: its outcome and unused answers, and the transactions performed. -/
def summaryOf : WalkResult → Option (SearchOutcome × List Bool) × Nat
  | .finished o r unused => (some (o, unused), r.trace.length)
  | .stalled r => (none, r.trace.length)

/-- SearchMachineEqualsReference: an idle state, with answers that end a SEARCH (the short bus of V5) and answers that
run out. -/
theorem witness_SearchMachineEqualsReference :
    State.reset.phase = .idle ∧
    summaryOf (refSearch State.reset.walkRegs (List.replicate 12 true)) = (some (.busContentionAnomaly, [true]), 11) ∧
    summaryOf (refSearch State.reset.walkRegs [true]) = (none, 1) := by decide

/-- A BitChannel that answers 1 to everything. -/
def highChannel : BitChannel Unit := { answer := fun _ _ => some ((), true) }

/-- A BitChannel that answers 0 to everything. -/
def lowChannel : BitChannel Unit := { answer := fun _ _ => some ((), false) }

/-- SearchEndsWhenTransactionsComplete, and BusShort, whose hypotheses are the stronger. -/
theorem witness_BusShort :
    State.reset.phase = .idle ∧ State.reset.terminal = false ∧
    (∀ b, ∃ b', highChannel.answer b .reset = some (b', true)) ∧
    (∀ b, ∃ b', highChannel.answer b .read = some (b', true)) ∧
    (∀ b d, ∃ b' v, highChannel.answer b (.write d) = some (b', v)) :=
  ⟨rfl, rfl, fun _ => ⟨(), rfl⟩, fun _ => ⟨(), rfl⟩, fun _ _ => ⟨(), true, rfl⟩⟩

theorem witness_SearchEndsWhenTransactionsComplete :
    State.reset.phase = .idle ∧ ∀ b r, ∃ b' v, highChannel.answer b r = some (b', v) :=
  ⟨rfl, fun _ _ => ⟨(), true, rfl⟩⟩

theorem witness_ZeroDeviceBus :
    State.reset.phase = .idle ∧ State.reset.cleared ∧ ∀ b, ∃ b', lowChannel.answer b .reset = some (b', false) :=
  ⟨rfl, ⟨rfl, rfl, rfl, rfl⟩, fun _ => ⟨(), rfl⟩⟩

/-- StalledSearchWaits: a running SEARCH with a host write and a host read to come. -/
theorem witness_StalledSearchWaits :
    atBusRst.busy = true ∧
    (∀ i ∈ [commandWrite 0x0001#16, .hostRead 1#4], i ≠ .powerOn ∧ ∀ v, i ≠ .busCompletion v) ∧
    (nextOf (run 5 { atBusRst with inputs := [commandWrite 0x0001#16, .hostRead 1#4] })).isSome = true :=
  ⟨by decide, by simp [commandWrite], by decide⟩

/-- IdleBlockNeverTouchesTheBus: an idle block about to see a completion nobody asked for. -/
theorem witness_IdleBlockNeverTouchesTheBus :
    (State.reset.facing (.busCompletion true)).phase = .idle ∧
    (∀ v rest, (State.reset.facing (.busCompletion true)).inputs ≠ .hostWrite 0#4 v :: rest) ∧
    (∀ rest, (State.reset.facing (.busCompletion true)).inputs ≠ .powerOn :: rest) ∧
    step (State.reset.facing (.busCompletion true)) = .next State.reset :=
  ⟨by decide, by simp [State.facing], by simp [State.facing], rfl⟩

theorem witness_OnlyThreeEventsChangeTheBlock :
    step (State.reset.facing (.abandonedAnswer true)) = .next State.reset := rfl

/-- TerminalTellsExhaustedFromFailure: a SEARCH that fails, and one that is Exhausted. -/
theorem witness_TerminalTellsExhaustedFromFailure :
    ((System.search lowChannel { block := State.reset, bus := () }).block.phase = .idle ∧
      (System.search lowChannel { block := State.reset, bus := () }).block.found = false) ∧
    ((System.search lowChannel { block := { State.reset with terminal := true }, bus := () }).block.phase = .idle ∧
      (System.search lowChannel { block := { State.reset with terminal := true }, bus := () }).block.found = false) := by
  decide

theorem witness_ExhaustedUntilCleared :
    ({ State.reset with terminal := true } : State).phase = .idle ∧
    (nextOf (step (({ State.reset with terminal := true } : State).facing (commandWrite 0x0003#16)))).map
      State.terminal = some true := by decide

/-- PowerOnResetAbandonsTheSearch has no hypothesis but the idle clause. -/
theorem witness_PowerOnResetAbandonsTheSearch : State.reset.phase = .idle := rfl

theorem witness_HiddenRegistersAreUnobservableFromIdle :
    State.reset.phase = .idle ∧ State.reset ≠ { State.reset with pos := 64#7, idb := true } ∧
    State.reset.eraseHidden = ({ State.reset with pos := 64#7, idb := true } : State).eraseHidden := by decide

theorem witness_ResultStaysUntilACommand :
    afterFound.resultValid = true ∧
    (nextOf (step (afterFound.facing (.hostRead 2#4)))).map State.cand = some afterFound.cand := by decide

theorem witness_StepKeepsTheInvariant :
    State.reset.Inv ∧ step (State.reset.facing .powerOn) = .next State.reset ∧
    (State.reset.facing .powerOn).Inv := ⟨witness_reset_inv, rfl, by constructor <;> decide⟩

/-- SearchStateInvariantsWhenIdle: an idle state reached after TARGET, where LD is at the end of its range. -/
theorem witness_SearchStateInvariantsWhenIdle :
    (nextOf (run 1 { State.reset with inputs := [commandWrite 0x2802#16] })).map (fun t => (t.phase, t.ld)) =
      some (.idle, 64#7) := by decide

/-- The devices D3 and D1 of 95_test_vectors.md. -/
def deviceD3 : Ident := #v[0x10, 0xCC, 0x03, 0x00, 0x00, 0x00, 0x00, 0x33]

def deviceD1 : Ident := #v[0x28, 0xAA, 0x01, 0x00, 0x00, 0x00, 0x00, 0x11]

theorem deviceD3_ne_deviceD1 : deviceD3 ≠ deviceD1 :=
  fun h => absurd (congrArg familyByte h) (by decide)

theorem zeroIdent_ne_deviceD1 : zeroIdent ≠ deviceD1 :=
  fun h => absurd (congrArg familyByte h) (by decide)

/-- StableWalkEndsOnADevice, LdIsTheDeepestOpenFork, EnumerationIsCompleteAndOrdered, EnumerateReadsEveryIdentifierOnce
(with two rounds more than devices) and RstateThenSearchIsIdempotent. -/
theorem witness_stable_bus :
    [deviceD3, deviceD1].Nodup ∧ (RefBus.of [deviceD3, deviceD1]).devs = [deviceD3, deviceD1] ∧
    (RefBus.of [deviceD3, deviceD1]).fault = .none ∧ (∀ d ∈ [deviceD3, deviceD1], familyByte d ≠ 0x00#8) ∧
    State.reset.phase = .idle ∧ State.reset.terminal = false ∧ State.reset.cleared ∧
    [deviceD3, deviceD1].length < 4 :=
  ⟨by simp [deviceD3_ne_deviceD1], rfl, rfl,
    List.forall_mem_cons.2 ⟨by decide, List.forall_mem_cons.2 ⟨by decide, by simp⟩⟩,
    rfl, rfl, ⟨rfl, rfl, rfl, rfl⟩, by decide⟩

/-- The Found premise of LdIsTheDeepestOpenFork, with LD ≠ 0 (95_test_vectors.md V8). -/
theorem witness_LdIsTheDeepestOpenFork :
    (System.search RefBus.channel { block := State.reset, bus := RefBus.of [deviceD3, deviceD1] }).block.found = true ∧
    (System.search RefBus.channel { block := State.reset, bus := RefBus.of [deviceD3, deviceD1] }).block.ld = 4#7 := by
  decide +kernel

theorem witness_FamilyZeroDeviceBlocksEnumeration :
    zeroIdent ∈ [zeroIdent, deviceD1] ∧ familyByte zeroIdent = 0x00#8 ∧ [zeroIdent, deviceD1].Nodup :=
  ⟨by simp, rfl, by simp [zeroIdent_ne_deviceD1]⟩

/-- TargetReturnsTheOneDeviceOfTheFamily, for a family that is not 0x00 and for 0x00. -/
theorem witness_TargetReturnsTheOneDeviceOfTheFamily :
    (deviceD1 ∈ [deviceD3, deviceD1] ∧ familyByte deviceD1 = 0x28#8 ∧
      ∀ d ∈ [deviceD3, deviceD1], familyByte d = 0x28#8 → d = deviceD1) ∧
    (zeroIdent ∈ [zeroIdent, deviceD1] ∧ familyByte zeroIdent = 0x00#8 ∧
      ∀ d ∈ [zeroIdent, deviceD1], familyByte d = 0x00#8 → d = zeroIdent) := by
  have h3 : familyByte deviceD3 ≠ 0x28#8 := by decide
  have h1 : familyByte deviceD1 ≠ 0x00#8 := by decide
  refine ⟨⟨by simp, rfl, ?_⟩, by simp, rfl, ?_⟩
  · intro d hd h
    simp only [List.mem_cons, List.not_mem_nil, or_false] at hd
    rcases hd with rfl | rfl
    · exact absurd h h3
    · rfl
  · intro d hd h
    simp only [List.mem_cons, List.not_mem_nil, or_false] at hd
    rcases hd with rfl | rfl
    · rfl
    · exact absurd h h1

theorem witness_SingleDeviceIsFoundThenExhausted :
    (RefBus.of [deviceD1]).devs = [deviceD1] ∧ familyByte deviceD1 ≠ 0x00#8 ∧ State.reset.terminal = false :=
  ⟨rfl, by decide, rfl⟩

end Sys2Proof.Tests
end

namespace Sys2Proof.Machine

/-! # What one step of a running SEARCH does

A completion either lets the SEARCH go on or ends it. The two relations list the cases once, with the branch conditions
of 41_search.md R141 to R145; every fact about an Engine step below is a case analysis of them. -/

/-- The completion `v` takes the running SEARCH of `s` to `t`, and the SEARCH goes on. -/
inductive SearchGoesOn (s : State) (v : Bool) : State → Prop
  | presence (hp : s.phase = .busRst) (hv : v = true) :
      SearchGoesOn s v { s.record (.reset true) with cmdIdx := 0#3, phase := .cmdBit }
  | commandBit (hp : s.phase = .cmdBit) (hi : s.cmdIdx.toNat < 7) :
      SearchGoesOn s v { s.record (.write (searchCmdBit s.cmdIdx)) with cmdIdx := s.cmdIdx + 1#3 }
  | lastCommandBit (hp : s.phase = .cmdBit) (hi : s.cmdIdx.toNat = 7) :
      SearchGoesOn s v { s.record (.write (searchCmdBit s.cmdIdx)) with pos := 1#7, phase := .rdId }
  | identifierBit (hp : s.phase = .rdId) :
      SearchGoesOn s v { s.record (.read v) with idb := v, phase := .rdCmp }
  | resolved (hp : s.phase = .rdCmp) (hpair : ¬(s.idb = true ∧ v = true)) :
      SearchGoesOn s v ({ s.record (.read v) with cmpb := v }).resolvePair
  | stored (hp : s.phase = .wrDir) (hpos : s.pos.toNat < 64) :
      SearchGoesOn s v { s.storeDir with pos := s.pos + 1#7, phase := .rdId }

/-- The completion `v` ends the running SEARCH of `s` in `t`. -/
inductive SearchEnds (s : State) (v : Bool) : State → Prop
  | noPresence (hp : s.phase = .busRst) (hv : v = false) :
      SearchEnds s v ((s.record (.reset false)).failSearch .busEmptyOrFaulted)
  | anomaly (hp : s.phase = .rdCmp) (hidb : s.idb = true) (hv : v = true) :
      SearchEnds s v (({ s.record (.read v) with cmpb := v }).failSearch .busContentionAnomaly)
  | degenerate (hp : s.phase = .wrDir) (hpos : 64 ≤ s.pos.toNat) (hfam : familyByte s.storeDir.cand = 0x00#8) :
      SearchEnds s v (s.storeDir.failSearch .degenerateResult)
  | found (hp : s.phase = .wrDir) (hpos : 64 ≤ s.pos.toNat) (hfam : familyByte s.storeDir.cand ≠ 0x00#8) :
      SearchEnds s v
        { s.storeDir with
          ld := s.lastZero, terminal := s.terminal || s.lastZero == 0#7, found := true
          phase := .idle, outcome := some .found }

/-- A completion that reaches a busy block does one of the things listed. -/
theorem State.engineStep_goesOn_or_ends (s : State) (v : Bool) (hb : s.phase ≠ .idle) :
    SearchGoesOn s v (s.engineStep v) ∨ SearchEnds s v (s.engineStep v) := by
  cases hp : s.phase with
  | idle => exact absurd hp hb
  | busRst =>
    rw [State.engineStep_busRst hp]
    cases v
    · exact .inr (.noPresence hp rfl)
    · exact .inl (.presence hp rfl)
  | cmdBit =>
    rw [State.engineStep_cmdBit hp]
    by_cases hi : s.cmdIdx < 7#3
    · rw [State.cmdBitStep, if_pos hi]; exact .inl (.commandBit hp hi)
    · rw [State.cmdBitStep, if_neg hi]
      exact .inl (.lastCommandBit hp (by have := s.cmdIdx.isLt; simp [BitVec.lt_def] at hi; omega))
  | rdId => rw [State.engineStep_rdId hp]; exact .inl (.identifierBit hp)
  | rdCmp =>
    rw [State.engineStep_rdCmp hp, State.rdCmpStep]
    by_cases hpair : s.idb = true ∧ v = true
    · rw [if_pos (by simpa using hpair)]; exact .inr (.anomaly hp hpair.1 hpair.2)
    · rw [if_neg (by simpa using hpair)]; exact .inl (.resolved hp hpair)
  | wrDir =>
    rw [State.engineStep_wrDir hp, State.wrDirStep]
    by_cases hpos : s.pos < 64#7
    · rw [if_pos hpos]; exact .inl (.stored hp hpos)
    · rw [if_neg hpos]
      have hlast : 64 ≤ s.pos.toNat := by simpa [BitVec.lt_def] using hpos
      rcases s.storeDir.completeWalk_cases with ⟨hfam, h⟩ | ⟨hfam, h⟩ <;> rw [h]
      · exact .inr (.degenerate hp hlast hfam)
      · exact .inr (.found hp hlast hfam)

section Cases
variable {s t : State} {v : Bool}

theorem SearchGoesOn.phase_ne_idle (h : SearchGoesOn s v t) : t.phase ≠ .idle := by
  cases h with
  | commandBit hp => simp [hp]
  | presence | lastCommandBit | identifierBit | resolved | stored => nofun

theorem SearchEnds.phase_eq_idle (h : SearchEnds s v t) : t.phase = .idle := by
  cases h <;> rfl

/-- A busy block that is busy after a completion has gone on. -/
theorem State.engineStep_goesOn (hb : s.busy = true) (hb' : (s.engineStep v).busy = true) :
    SearchGoesOn s v (s.engineStep v) := by
  rcases s.engineStep_goesOn_or_ends v ((State.busy_eq_true_iff s).1 hb) with h | h
  · exact h
  · exact absurd h.phase_eq_idle ((State.busy_eq_true_iff _).1 hb')

/-- While the SEARCH goes on, LD, terminal, FOUND and the outcome stay (10_state.md R41). -/
theorem SearchGoesOn.result_frame (h : SearchGoesOn s v t) :
    t.ld = s.ld ∧ t.terminal = s.terminal ∧ t.found = s.found ∧ t.outcome = s.outcome := by
  cases h <;> exact ⟨rfl, rfl, rfl, rfl⟩

/-- A SEARCH goes on from its bus reset only when a device answers (41_search.md R122). -/
theorem SearchGoesOn.presence_of_busRst (h : SearchGoesOn s v t) (hb : s.phase = .busRst) : v = true := by
  cases h with
  | presence hp hv => exact hv
  | commandBit hp | lastCommandBit hp | identifierBit hp | resolved hp | stored hp => cases hp.symm.trans hb

end Cases

/-! # The transactions of a SEARCH -/

/-- The transaction that a request becomes when the BitChannel completes it with `v` (20_memory.md R60). -/
def BusRequest.performed (v : Bool) : BusRequest → Transaction
  | .reset => .reset v
  | .write b => .write b
  | .read => .read v

/-- What the invariant says of the transactions alone. -/
structure TraceInOrder (tr : List Transaction) : Prop where
  bound : tr.length ≤ 201
  kinds : tr.reverse.map Transaction.kind = (List.range tr.length).map expectedKind
  opening : 1 < tr.length → tr.reverse.take 9 <+: openingTransactions

theorem TraceInOrder.nil : TraceInOrder [] := ⟨by simp, by simp, by simp⟩

theorem State.Inv.traceInOrder {s : State} (h : s.Inv) : TraceInOrder s.trace :=
  ⟨h.trace_bound, h.trace_kinds, fun hl => h.trace_opening (.inl hl)⟩

/-- A trace that opens a SEARCH still does after its next transaction, when that is the next of the opening. -/
theorem opening_cons {tr : List Transaction} {x : Transaction} (h : tr.reverse.take 9 <+: openingTransactions)
    (hx : tr.length < 9 → openingTransactions[tr.length]? = some x) :
    (x :: tr).reverse.take 9 <+: openingTransactions := by
  rw [List.reverse_cons]
  by_cases hl : tr.length < 9
  · rw [List.take_of_length_le (by simp; omega)] at h ⊢
    rw [List.prefix_iff_eq_take] at h ⊢
    rw [List.length_reverse] at h
    simp [List.take_add_one, ← h, hx hl]
  · rwa [List.take_append_of_le_length (by simp; omega)]

theorem TraceInOrder.cons {tr : List Transaction} {x : Transaction} (h : TraceInOrder tr) (hlen : tr.length ≤ 200)
    (hkind : x.kind = expectedKind tr.length)
    (hopen : 1 ≤ tr.length → (x :: tr).reverse.take 9 <+: openingTransactions) : TraceInOrder (x :: tr) where
  bound := by simp; omega
  kinds := by simp [h.kinds, hkind, List.range_succ]
  opening hl := hopen (by simpa [Nat.succ_le_iff] using hl)

/-- After the reset, the opening is the bits of SEARCH_CMD in bus order (41_search.md R142). -/
theorem openingTransactions_searchCmdBit (i : BitVec 3) :
    openingTransactions[1 + i.toNat]? = some (.write (searchCmdBit i)) := by
  revert i; decide

section Performed
variable {s t : State} {v : Bool} {r : BusRequest}

/-- Going on performs exactly the outstanding transaction (41_search.md R140). -/
theorem SearchGoesOn.trace_eq (h : SearchGoesOn s v t) (hr : s.request = some r) :
    t.trace = r.performed v :: s.trace := by
  unfold State.request at hr
  cases h with
  | presence hp hv => rw [hp] at hr; cases hr; rw [hv]; rfl
  | commandBit hp | lastCommandBit hp | identifierBit hp | resolved hp | stored hp => rw [hp] at hr; cases hr; rfl

/-- So does ending. -/
theorem SearchEnds.trace_eq (h : SearchEnds s v t) (hr : s.request = some r) :
    t.trace = r.performed v :: s.trace := by
  unfold State.request at hr
  cases h with
  | noPresence hp hv => rw [hp] at hr; cases hr; rw [hv]; rfl
  | anomaly hp | degenerate hp | found hp => rw [hp] at hr; cases hr; rfl

/-- A busy block has a transaction outstanding (20_memory.md R64). -/
theorem State.exists_request (hb : s.phase ≠ .idle) : ∃ r, s.request = some r := by
  unfold State.request
  cases hp : s.phase with
  | idle => exact absurd hp hb
  | busRst | cmdBit | rdId | rdCmp | wrDir => exact ⟨_, rfl⟩

/-- A running SEARCH has a transaction left to perform (41_search.md R137). -/
theorem State.Inv.trace_length_le (h : s.Inv) (hb : s.phase ≠ .idle) : s.trace.length ≤ 200 := by
  have hpos := h.pos_range
  have hidx := s.cmdIdx.isLt
  rw [h.trace_length, State.completedTransactions]
  cases hp : s.phase with
  | idle => exact absurd hp hb
  | busRst | cmdBit => dsimp only; omega
  | rdId | rdCmp | wrDir => have := hpos (by rw [hp]; rfl); dsimp only; omega

/-- The outstanding transaction has the kind the order of a SEARCH gives it (41_search.md R137). -/
theorem State.Inv.performed_kind (h : s.Inv) (hr : s.request = some r) :
    (r.performed v).kind = expectedKind s.trace.length := by
  have hidx := s.cmdIdx.isLt
  rw [h.trace_length, State.completedTransactions]
  unfold State.request at hr
  cases hp : s.phase with
  | idle => rw [hp] at hr; cases hr
  | busRst => rw [hp] at hr; cases hr; rfl
  | cmdBit | rdCmp =>
    rw [hp] at hr; cases hr
    simp [BusRequest.performed, Transaction.kind, expectedKind]; omega
  | rdId | wrDir =>
    rw [hp] at hr; cases hr
    simp [BusRequest.performed, Transaction.kind, expectedKind]

/-- The running SEARCH's transactions open as they must after its next one, a reset that saw presence included
(41_search.md R122, R123). -/
theorem State.Inv.performed_opening (h : s.Inv) (hr : s.request = some r) (hv : s.phase = .busRst → v = true) :
    (r.performed v :: s.trace).reverse.take 9 <+: openingTransactions := by
  have hlen := h.trace_length
  unfold State.request at hr
  unfold State.completedTransactions at hlen
  cases hp : s.phase <;> simp only [hp] at hr hlen
  case idle => cases hr
  case busRst =>
    cases hr
    rw [List.length_eq_zero_iff.1 hlen, hv hp]
    decide
  case cmdBit =>
    cases hr
    exact opening_cons (h.trace_opening (.inr hp)) fun _ => hlen ▸ openingTransactions_searchCmdBit _
  all_goals exact opening_cons (h.trace_opening (.inl (by omega))) fun _ => by omega

/-- The transactions stay in order when the outstanding one is performed. -/
theorem State.Inv.traceInOrder_performed (h : s.Inv) (hr : s.request = some r) :
    TraceInOrder (r.performed v :: s.trace) := by
  have hb : s.phase ≠ .idle := fun hp => by simp [State.request, hp] at hr
  refine h.traceInOrder.cons (h.trace_length_le hb) (h.performed_kind hr) fun hl => h.performed_opening hr fun hp => ?_
  rw [h.trace_length, State.completedTransactions, hp] at hl
  cases hl

end Performed

end Sys2Proof.Machine

namespace Sys2Proof.Machine

/-! # The invariant, clause by clause -/

/-- An idle block meets the invariant when its SearchState, FOUND and transactions do. -/
theorem State.Inv.of_idle {s : State} (hp : s.phase = .idle) (hld : s.ld.toNat ≤ 64) (hlfd : s.lfd.toNat ≤ 8)
    (hterm : s.terminal = true → s.ld = 0#7)
    (hfound : s.found = true → familyByte s.cand ≠ 0x00#8 ∧ s.outcome = some .found)
    (htr : TraceInOrder s.trace) : s.Inv where
  ld_range := hld
  lfd_range := hlfd
  terminal_ld := hterm
  busy_terminal hb := absurd hp ((State.busy_eq_true_iff s).1 hb)
  busy_found hb := absurd hp ((State.busy_eq_true_iff s).1 hb)
  found_family hf := (hfound hf).1
  found_outcome hf := (hfound hf).2
  pos_range hw := by simp [hp, Phase.walking] at hw
  lastZero_range hb := absurd hp ((State.busy_eq_true_iff s).1 hb)
  pair_resolved hw := by simp [hp] at hw
  dir_agrees hw := by simp [hp] at hw
  trace_length := by simp [State.completedTransactions, hp]
  trace_bound := htr.bound
  trace_kinds := htr.kinds
  trace_opening
    | .inl hl => htr.opening hl
    | .inr hc => by simp [hp] at hc

/-- A cleared idle block with FOUND = 0 meets the invariant, whatever its hidden registers hold. -/
theorem State.Inv.of_cleared {s : State} (hp : s.phase = .idle) (hc : s.cleared) (hf : s.found = false)
    (htr : TraceInOrder s.trace) : s.Inv := by
  obtain ⟨-, hld, hlfd, hterm⟩ := hc
  exact .of_idle hp (by simp [hld]) (by simp [hlfd]) (by simp [hterm]) (by simp [hf]) htr

/-- The invariant says nothing of CMDERR, the host's last read or what is pending. -/
theorem State.Inv.of_interface {s : State} (h : s.Inv) (cmderr : Bool) (lastRead : Option (RegIndex × HostValue))
    (inputs : List Input) :
    ({ s with cmderr := cmderr, lastRead := lastRead, inputs := inputs } : State).Inv :=
  { h with }

/-! ## Inputs that are no completion -/

section Inputs
variable {s : State}

theorem State.reset_inv : State.reset.Inv := .of_cleared rfl ⟨rfl, rfl, rfl, rfl⟩ rfl .nil

theorem State.powerOnReset_inv (s : State) : s.powerOnReset.Inv :=
  State.reset_inv.of_interface false none s.inputs

theorem State.Inv.rejectCommand (h : s.Inv) : s.rejectCommand.Inv := h.of_interface true s.lastRead s.inputs

theorem State.Inv.hostRead (h : s.Inv) (idx : RegIndex) : (s.hostRead idx).Inv :=
  h.of_interface s.cmderr (some (idx, s.readReg idx)) s.inputs

/-- A SEARCH that starts keeps the invariant: it is Exhausted, or waits for its bus reset with no
transaction performed (41_search.md R121). -/
theorem State.Inv.startSearch (h : s.Inv) : s.startSearch.Inv := by
  rcases s.startSearch_cases with ⟨-, hs⟩ | ⟨hterm, hs⟩ <;> rw [hs]
  · exact .of_idle rfl h.ld_range h.lfd_range h.terminal_ld (by simp) .nil
  · exact { h with
      busy_terminal := fun _ => hterm
      busy_found := fun _ => rfl
      found_family := nofun
      found_outcome := nofun
      pos_range := nofun
      lastZero_range := fun _ => Nat.zero_le _
      pair_resolved := nofun
      dir_agrees := nofun
      trace_length := rfl
      trace_bound := TraceInOrder.nil.bound
      trace_kinds := TraceInOrder.nil.kinds
      trace_opening := by simp }

/-- An accepted command keeps the invariant. -/
theorem State.Inv.acceptedEffect (h : s.Inv) (hp : s.phase = .idle) (i : Instr) :
    (acceptedEffect i s).Inv := by
  cases i with
  | rstate => exact .of_cleared hp ⟨rfl, rfl, rfl, rfl⟩ rfl h.traceInOrder
  | target f =>
    exact .of_idle hp (Nat.le_refl 64) (Nat.zero_le 8) (by simp [Sys2Proof.Machine.acceptedEffect])
      (by simp [Sys2Proof.Machine.acceptedEffect]) h.traceInOrder
  | search => exact h.startSearch

end Inputs

/-! ## Completions -/

section Completions
variable {s t : State} {v : Bool}

/-- LFD is written with a position of the first byte only (41_search.md R129). -/
theorem SearchGoesOn.lfd_range (h : SearchGoesOn s v t) (hs : s.Inv) : t.lfd.toNat ≤ 8 := by
  cases h with
  | resolved =>
    rw [State.resolvePair_lfd]
    split
    next hfork =>
      have hpos : s.pos.toNat ≤ 8 := hfork.2
      simp; omega
    · exact hs.lfd_range
  | presence | commandBit | lastCommandBit | identifierBit | stored => exact hs.lfd_range

/-- The walk stands at a position in 1..64 (10_state.md R36). -/
theorem SearchGoesOn.pos_range (h : SearchGoesOn s v t) (hs : s.Inv) (hw : t.phase.walking = true) :
    1 ≤ t.pos.toNat ∧ t.pos.toNat ≤ 64 := by
  cases h with
  | presence => cases hw
  | commandBit hp => simp [hp, Phase.walking] at hw
  | lastCommandBit => simp
  | identifierBit hp | resolved hp => exact hs.pos_range (by rw [hp]; rfl)
  | stored hp hpos => simp; omega

/-- The pending fork is a position already resolved (10_state.md R40). -/
theorem SearchGoesOn.lastZero_range (h : SearchGoesOn s v t) (hs : s.Inv) : t.lastZero.toNat ≤ t.resolvedUpTo := by
  have hz : s.phase ≠ .idle → s.lastZero.toNat ≤ s.resolvedUpTo := fun hb =>
    hs.lastZero_range ((State.busy_eq_true_iff s).2 hb)
  cases h with
  | presence hp | commandBit hp | lastCommandBit hp | identifierBit hp =>
    simpa [State.resolvedUpTo, hp] using hz
  | resolved hp =>
    simp only [State.resolvedUpTo, hp, State.resolvePair_lastZero, State.resolvePair_phase,
      State.resolvePair_pos] at hz ⊢
    split
    · exact Nat.le_refl _
    · exact (hz nofun).trans (Nat.sub_le _ _)
  | stored hp hpos =>
    simp only [State.resolvedUpTo, hp] at hz ⊢
    have := hz nofun
    simp; omega

/-- The direction is resolved from a pair that is not (1,1), and is its bit where the pair agrees
(41_search.md R125, R126). -/
theorem SearchGoesOn.pair (h : SearchGoesOn s v t) (hw : t.phase = .wrDir) :
    ¬(t.idb = true ∧ t.cmpb = true) ∧ (t.idb ≠ t.cmpb → t.dir = t.idb) := by
  cases h with
  | resolved hp hpair =>
    exact ⟨hpair, fun hne => if_pos hne⟩
  | commandBit hp => simp [hp] at hw
  | presence | lastCommandBit | identifierBit | stored => cases hw

/-- One more transaction of the running SEARCH has completed (41_search.md R140). -/
theorem SearchGoesOn.completedTransactions (h : SearchGoesOn s v t) (hs : s.Inv) :
    t.completedTransactions = s.completedTransactions + 1 := by
  have hpos := hs.pos_range
  cases h with
  | presence hp => simp [State.completedTransactions, hp]
  | commandBit hp hi => simp [State.completedTransactions, hp]; omega
  | lastCommandBit hp hi => simp [State.completedTransactions, hp, hi]
  | identifierBit hp => simp [State.completedTransactions, hp]; omega
  | resolved hp => simp [State.completedTransactions, hp]; omega
  | stored hp hlt =>
    have := hpos (by simp [hp, Phase.walking])
    simp [State.completedTransactions, hp]; omega

/-- A SEARCH that goes on keeps the invariant. -/
theorem SearchGoesOn.inv (h : SearchGoesOn s v t) (hs : s.Inv) (hb : s.busy = true) : t.Inv := by
  obtain ⟨r, hr⟩ := State.exists_request ((State.busy_eq_true_iff s).1 hb)
  obtain ⟨hld, hterm, hfound, -⟩ := h.result_frame
  have hterm' : t.terminal = false := hterm.trans (hs.busy_terminal hb)
  have hfound' : t.found = false := hfound.trans (hs.busy_found hb)
  have htr : TraceInOrder t.trace := h.trace_eq hr ▸ hs.traceInOrder_performed hr
  exact {
    ld_range := hld ▸ hs.ld_range
    lfd_range := h.lfd_range hs
    terminal_ld := by simp [hterm']
    busy_terminal := fun _ => hterm'
    busy_found := fun _ => hfound'
    found_family := by simp [hfound']
    found_outcome := by simp [hfound']
    pos_range := h.pos_range hs
    lastZero_range := fun _ => h.lastZero_range hs
    pair_resolved := fun hw => (h.pair hw).1
    dir_agrees := fun hw => (h.pair hw).2
    trace_length := by rw [h.completedTransactions hs, h.trace_eq hr, List.length_cons, hs.trace_length]
    trace_bound := htr.bound
    trace_kinds := htr.kinds
    trace_opening := fun _ => h.trace_eq hr ▸ hs.performed_opening hr h.presence_of_busRst }

/-- A SEARCH that ends keeps the invariant: cleared, or with an identifier of non-zero family in CAND and the pending
fork in LD (41_search.md R133, R134). -/
theorem SearchEnds.inv (h : SearchEnds s v t) (hs : s.Inv) (hb : s.busy = true) : t.Inv := by
  obtain ⟨r, hr⟩ := State.exists_request ((State.busy_eq_true_iff s).1 hb)
  have htr : TraceInOrder t.trace := h.trace_eq hr ▸ hs.traceInOrder_performed hr
  cases h with
  | noPresence | anomaly | degenerate => exact .of_cleared rfl ⟨rfl, rfl, rfl, rfl⟩ rfl htr
  | found hp hpos hfam =>
    have hz : s.lastZero.toNat ≤ s.pos.toNat := by simpa [State.resolvedUpTo, hp] using hs.lastZero_range hb
    have hterm : s.terminal = false := hs.busy_terminal hb
    refine .of_idle rfl (hz.trans (hs.pos_range (by rw [hp]; rfl)).2) hs.lfd_range ?_ (fun _ => ⟨hfam, rfl⟩) htr
    simp [hterm]

/-- A completion keeps the invariant. -/
theorem State.Inv.engineStep (hs : s.Inv) (v : Bool) : (s.engineStep v).Inv := by
  by_cases hp : s.phase = .idle
  · rwa [State.engineStep_idle hp]
  · have hb : s.busy = true := (State.busy_eq_true_iff s).2 hp
    rcases s.engineStep_goesOn_or_ends v hp with h | h
    · exact h.inv hs hb
    · exact h.inv hs hb

end Completions

/-! # Steps and runs -/

section Steps
variable {s t : State}

/-- Every input keeps the invariant. -/
theorem State.Inv.deliver {i : Input} (hs : s.Inv) (h : deliver i s = .next t) : t.Inv := by
  rcases deliver_cases i s with ⟨value, -, hd⟩ | ⟨-, hd⟩ | ⟨idx, -, hd⟩ | ⟨v, -, hd⟩ | ⟨-, hd⟩ <;> rw [hd] at h
  · rcases submit_cases (commandWordOf value) s with ⟨c, -, hp, hc⟩ | ⟨-, hc⟩ <;> rw [hc] at h <;> cases h
    · exact (hs.of_interface false s.lastRead s.inputs).acceptedEffect hp c
    · exact hs.rejectCommand
  · cases h; exact hs
  · cases h; exact hs.hostRead idx
  · cases h; exact hs.engineStep v
  · cases h; exact s.powerOnReset_inv

/-- Every step keeps the invariant. -/
theorem State.Inv.step (hs : s.Inv) (h : step s = .next t) : t.Inv := by
  cases hi : s.inputs with
  | nil => rw [step_of_no_input hi] at h; cases h; exact hs
  | cons i rest =>
    rw [step_of_input hi] at h
    exact (hs.of_interface s.cmderr s.lastRead rest).deliver h

/-- So does every run. -/
theorem State.Inv.run {n : Nat} (hs : s.Inv) (h : run n s = .next t) : t.Inv := by
  induction n generalizing s with
  | zero => cases h; exact hs
  | succ n ih =>
    simp only [Machine.run] at h
    cases hstep : Machine.step s with
    | next u => rw [hstep] at h; exact ih (hs.step hstep) h
    | fault f => cases f
    | refused r => rw [hstep] at h; cases h

end Steps

/-! # The obligations about the invariant -/

/-- Settles O39: every input keeps the invariant, and a completion does because each clause holds whether the SEARCH
goes on or ends. -/
theorem stepKeepsTheInvariant : Obligations.StepKeepsTheInvariant :=
  fun _ _ hs h => hs.step h

/-- Settles O38: the reset state is idle and cleared, with FOUND = 0 and no transaction. -/
theorem resetMeetsTheInvariant : Obligations.ResetMeetsTheInvariant := State.reset_inv

/-- Settles O40, from the invariant, which reset meets and every run keeps. -/
theorem searchStateInvariantsWhenIdle : Obligations.SearchStateInvariantsWhenIdle := by
  intro inputs n t h _
  have ht : t.Inv := (State.reset_inv.of_interface false none inputs).run h
  exact ⟨ht.ld_range, ht.lfd_range, fun hterm => by rw [ht.terminal_ld hterm]; rfl⟩

/-! # What a completion leaves alone -/

section Frame
variable {s t : State} {v : Bool}

/-- The candidate changes only where WRDIR stores, at the position of the walk (41_search.md R131). -/
theorem SearchGoesOn.cand_frame (h : SearchGoesOn s v t) :
    t.cand = if s.phase = .wrDir then setCandBit s.cand s.pos.toNat s.dir else s.cand := by
  cases h with
  | presence hp | commandBit hp | lastCommandBit hp | identifierBit hp | resolved hp | stored hp => simp [hp]

/-- LFD and lastZero, and the pair's second bit with its direction, change only in RDCMP (41_search.md R128, R129). -/
theorem SearchGoesOn.resolution_frame (h : SearchGoesOn s v t) (hne : s.phase ≠ .rdCmp) :
    t.lfd = s.lfd ∧ t.lastZero = s.lastZero ∧ t.cmpb = s.cmpb ∧ t.dir = s.dir := by
  cases h with
  | resolved hp => exact absurd hp hne
  | presence | commandBit | lastCommandBit | identifierBit | stored => exact ⟨rfl, rfl, rfl, rfl⟩

/-- The identifier bit changes only in RDID (41_search.md R143). -/
theorem SearchGoesOn.idb_frame (h : SearchGoesOn s v t) (hne : s.phase ≠ .rdId) : t.idb = s.idb := by
  cases h with
  | identifierBit hp => exact absurd hp hne
  | presence | commandBit | lastCommandBit | resolved | stored => rfl

end Frame

/-- Settles O23: the frame of an Engine step that does not end the SEARCH, register by register. -/
theorem engineStepFrame : Obligations.EngineStepFrame := by
  intro s t v hs hb h
  rw [step_facing_busCompletion] at h
  cases h
  obtain ⟨hcmderr, hread, hinputs⟩ := s.engineStep_frame v
  refine ⟨hcmderr, hread, hinputs, fun hb' => ?_⟩
  have hgo := State.engineStep_goesOn hb hb'
  obtain ⟨hld, hterm, hfound, hout⟩ := hgo.result_frame
  refine ⟨hld, hterm, hfound, hout, fun hne => ?_, fun hp q hq hq' => ?_, fun hne => ?_, hgo.idb_frame, fun hne => ?_⟩
  · rw [hgo.cand_frame, if_neg hne]
  · obtain ⟨hpos, hpos'⟩ := hs.pos_range (by rw [hp]; rfl)
    rw [hgo.cand_frame, if_pos hp, candBit_setCandBit _ _ _ _ hpos hpos' hq hq']
  · obtain ⟨hlfd, hz, -, -⟩ := hgo.resolution_frame hne
    exact ⟨hlfd, hz⟩
  · obtain ⟨-, -, hcmpb, hdir⟩ := hgo.resolution_frame hne
    exact ⟨hcmpb, hdir⟩

/-! # The host interface -/

/-- A word is malformed exactly when its fields are not well formed (30_encoding.md R85, R90). -/
theorem decode_isMalformed (w : CommandWord) : (decode w).isMalformed = !(splitWord w).wellFormed := by
  unfold decode CommandFields.wellFormed CommandFields.rsvZero CommandFields.opAssigned CommandFields.argAllowed
  split_ifs <;> simp_all [Command.isMalformed]

/-- After a word is submitted, CMDERR is 1 exactly when BUSY was 1 or the word is malformed (10_state.md R31). -/
theorem cmderr_of_submit {w : CommandWord} {s t : State} (h : submit w s = .next t) :
    t.cmderr = true ↔ s.busy = true ∨ (decode w).isMalformed = true := by
  rcases submit_cases w s with ⟨i, hd, hp, hs⟩ | ⟨hrej, hs⟩ <;> rw [hs] at h <;> cases h
  · simp [(acceptedEffect_frame i _).1, hd, Command.isMalformed, State.busy, hp]
  · rcases hrej with ⟨why, hd⟩ | hp
    · simp [hd, Command.isMalformed]
    · simp [State.busy, hp]

/-- A CMD write breaks the host's duties exactly when BUSY is 1 or its word is malformed (70_reset_and_hazards.md
R210). -/
theorem hostDisciplined_cmdWrite (s : State) (value : HostValue) :
    (s.facing (.hostWrite Config.cmdIndex value)).hostDisciplined = false ↔
      s.busy = true ∨ (decode (commandWordOf value)).isMalformed = true := by
  have hbusy : (s.facing (.hostWrite Config.cmdIndex value)).busy = s.busy := State.busy_congr rfl
  rw [decode_isMalformed]
  cases hb : s.busy <;> simp [State.hostDisciplined, hbusy, hb]

/-- No input but a CMD write or a power-on reset changes CMDERR (10_state.md R31). -/
theorem cmderr_of_deliver {i : Input} {s t : State} (h : deliver i s = .next t)
    (hw : ∀ value, i ≠ .hostWrite Config.cmdIndex value) (hp : i ≠ .powerOn) : t.cmderr = s.cmderr := by
  rcases deliver_cases i s with ⟨value, hi, -⟩ | ⟨-, hd⟩ | ⟨idx, -, hd⟩ | ⟨v, -, hd⟩ | ⟨hi, -⟩
  · exact absurd hi (hw value)
  · cases hd.symm.trans h; rfl
  · cases hd.symm.trans h; rfl
  · cases hd.symm.trans h; exact (s.engineStep_frame v).1
  · exact absurd hi hp

/-- Settles O8: an accepted command clears CMDERR, a rejected one sets it, and no other input reaches it. -/
theorem cmderrReportsTheLastCommand : Obligations.CmderrReportsTheLastCommand := by
  intro s t i h
  rw [step_facing] at h
  refine ⟨?_, fun hw hp => cmderr_of_deliver h hw hp⟩
  rintro value rfl
  have key := cmderr_of_submit (w := commandWordOf value) h
  exact ⟨key, key.trans (hostDisciplined_cmdWrite s value).symm⟩

/-- Settles O9: the write interface submits a word for index 0 only (20_memory.md R53). -/
theorem writesOutsideCmdAreIgnored : Obligations.WritesOutsideCmdAreIgnored := by
  intro s idx value hne
  rw [step_facing]
  exact if_neg hne

/-- Byte `i` of the identifier lies in bits `8 * i` to `8 * i + 7` of CAND (10_state.md R34). -/
theorem getLsbD_packIdent (id : Ident) (i j : Nat) (hi : i < 8) (hj : j < 8) :
    (packIdent id).getLsbD (8 * i + j) = id[i].getLsbD j := by
  simp only [packIdent, BitVec.getLsbD_append]
  interval_cases i <;> grind

/-- Settles O11: position p lies in byte (p-1) div 8, at bit (p-1) mod 8 (00_scope.md R12). -/
theorem candRegisterHoldsPositions : Obligations.CandRegisterHoldsPositions := by
  intro s p hp hp'
  have hbyte := byteOf_lt hp'
  have hsplit : p - 1 = 8 * byteOf p + bitOf p := by unfold byteOf bitOf; omega
  have hread : s.readReg 2#4 = packIdent s.cand := rfl
  rw [hread, hsplit, getLsbD_packIdent _ _ _ hbyte (bitOf_lt p), candBit_eq _ _ hbyte]

end Sys2Proof.Machine

namespace Sys2Proof.Machine

/-! # A CMD write -/

/-- Decoding gives back the command whose word it is (30_encoding.md R85, R89). -/
theorem decode_encode (i : Instr) : decode (encode i) = .valid i := by
  have hsplit : splitWord (encode i) = i.fields := Laws.splitWord_joinWord i.fields
  rw [decode, hsplit]
  cases i <;> rfl

/-- A submitted word that decodes is performed as its command, whether or not the block is busy (30_encoding.md
R86). -/
theorem submit_of_decode {w : CommandWord} {i : Instr} (h : decode w = .valid i) (s : State) :
    submit w s = exec i s := by
  simp [submit, h]

/-- Placing a whole command word is placing its CMD write (20_memory.md R53, R68). -/
theorem State.withFetchWord_toNat (s : State) (w : CommandWord) :
    s.withFetchWord 16 w.toNat = s.facing (commandWrite w) := by
  simp [State.withFetchWord, Nat.mod_eq_of_lt w.isLt]

/-- Settles O5: a write to index 0 submits its low 16 bits, and a submitted word that decodes is performed. -/
theorem stepRunsTheDecodedCommand : Obligations.StepRunsTheDecodedCommand := by
  refine ⟨fun s value rest i hinputs hdecode => ?_, fun s i => ?_⟩
  · rw [step_of_input hinputs]
    exact submit_of_decode hdecode _
  · rw [State.withFetchWord_toNat, step_facing_commandWrite, submit_of_decode (decode_encode i)]

/-! # The outstanding transaction -/

/-- A completion adds the outstanding transaction and no other (41_search.md R140). -/
theorem State.engineStep_trace {s : State} {r : BusRequest} (v : Bool) (hr : s.request = some r) :
    (s.engineStep v).trace = r.performed v :: s.trace := by
  have hb : s.phase ≠ .idle := fun hp => by simp [State.request, hp] at hr
  rcases s.engineStep_goesOn_or_ends v hb with h | h
  · exact h.trace_eq hr
  · exact h.trace_eq hr

/-- Settles O22: the transaction performed is the one requested, whether the SEARCH goes on or ends. -/
theorem engineStepPerformsTheOutstandingTransaction : Obligations.EngineStepPerformsTheOutstandingTransaction := by
  intro s v hb
  obtain ⟨r, hr⟩ := State.exists_request ((State.busy_eq_true_iff s).1 hb)
  refine ⟨s.engineStep v, r, r.performed v, step_facing_busCompletion s v, hr, State.engineStep_trace v hr, ?_⟩
  cases r <;> rfl

/-! # What a host read returns -/

/-- The record of a read is no part of what a read returns (20_memory.md R54). -/
theorem State.readReg_hostRead (s : State) (read idx : RegIndex) : (s.hostRead read).readReg idx = s.readReg idx := rfl

/-- The unmapped indices read 0 (10_state.md R32). -/
theorem State.readReg_of_unmapped (s : State) {idx : RegIndex} (h : 5 ≤ idx.toNat) : s.readReg idx = 0#64 := by
  unfold State.readReg
  split
  case h_5 => rfl
  all_goals omega

/-- STATUS, bit by bit: the four flags, and zeros above them (10_state.md R33). -/
theorem State.getLsbD_readReg_status (s : State) (n : Nat) :
    (s.readReg Config.statusIndex).getLsbD n =
      if n = 0 then s.busy else if n = 1 then s.found else if n = 2 then s.cmderr else if n = 3 then s.terminal
      else false := by
  have hread : s.readReg Config.statusIndex = s.statusReg.setWidth 64 := rfl
  simp only [hread, State.statusReg, BitVec.getLsbD_setWidth, BitVec.getLsbD_append]
  rcases n with _ | _ | _ | _ | n <;> simp

/-- Byte `i` of CAND is byte `i` of the identifier (10_state.md R34; 20_memory.md R56). -/
theorem extractLsb'_packIdent (id : Ident) (i : Nat) (hi : i < 8) :
    (packIdent id).extractLsb' (8 * i) 8 = id[i] := by
  apply BitVec.eq_of_getLsbD_eq
  intro j hj
  rw [BitVec.getLsbD_extractLsb', getLsbD_packIdent id i j hi hj]
  simp [hj]

/-- LDR is LD with a zero above it (10_state.md R32). -/
theorem State.toNat_readReg_ldr (s : State) : (s.readReg Config.ldrIndex).toNat = s.ld.toNat := by
  have hread : s.readReg Config.ldrIndex = (0#1 ++ s.ld).setWidth 64 := rfl
  rw [hread, BitVec.toNat_setWidth_of_le (by decide), BitVec.toNat_append]
  simp

/-- LFDR is LFD with zeros above it (10_state.md R32). -/
theorem State.toNat_readReg_lfdr (s : State) : (s.readReg Config.lfdrIndex).toNat = s.lfd.toNat := by
  have hread : s.readReg Config.lfdrIndex = (0#4 ++ s.lfd).setWidth 64 := rfl
  rw [hread, BitVec.toNat_setWidth_of_le (by decide), BitVec.toNat_append]
  simp

/-- Settles O10: the read interface keeps a record only, and the map is read register by register (10_state.md
R32). -/
theorem hostReadReturnsTheRegister : Obligations.HostReadReturnsTheRegister := by
  intro s idx
  have hstep : step (s.facing (.hostRead idx)) = .next (s.hostRead idx) := rfl
  have hcmd : s.readReg Config.cmdIndex = 0#64 := rfl
  exact ⟨hstep, s.readReg_hostRead idx idx, hcmd, s.readReg_of_unmapped, s.getLsbD_readReg_status,
    fun i => extractLsb'_packIdent s.cand i i.isLt, s.toNat_readReg_ldr, s.toNat_readReg_lfdr⟩

end Sys2Proof.Machine

namespace Sys2Proof.Machine

/-! # The opcode map -/

/-- Joining the fields of a word gives back the word (30_encoding.md R80). -/
theorem joinWord_splitWord (w : CommandWord) : joinWord (splitWord w) = w := by
  have harg : w.extractLsb' 8 8 ++ w.extractLsb' 4 4 = w.extractLsb' 4 (8 + 4) :=
    BitVec.extractLsb'_append_extractLsb'_eq_extractLsb' rfl
  have hword : w.extractLsb' 4 12 ++ w.extractLsb' 0 4 = w.extractLsb' 0 (12 + 4) :=
    BitVec.extractLsb'_append_extractLsb'_eq_extractLsb' rfl
  rw [joinWord, splitWord, harg, hword, BitVec.extractLsb'_eq_self]

/-- A word is a command's when it has that command's fields. -/
theorem eq_encode_iff (w : CommandWord) (i : Instr) : w = encode i ↔ splitWord w = i.fields := by
  constructor
  · rintro rfl
    exact Laws.splitWord_joinWord i.fields
  · intro h
    rw [encode, ← h, joinWord_splitWord]

/-- The decoder answers a command for that command's fields only (30_encoding.md R85, R89). -/
theorem splitWord_of_decode {w : CommandWord} {i : Instr} (h : decode w = .valid i) : splitWord w = i.fields := by
  unfold decode at h
  generalize splitWord w = c at h ⊢
  obtain ⟨arg, rsv, op⟩ := c
  split_ifs at h <;> cases h <;> simp_all [Instr.fields]

/-- Decoding inverts encoding, both ways: each command has one word. -/
theorem decode_eq_valid_iff (w : CommandWord) (i : Instr) : decode w = .valid i ↔ w = encode i := by
  constructor
  · exact fun h => (eq_encode_iff w i).2 (splitWord_of_decode h)
  · rintro rfl
    exact decode_encode i

/-- TARGET's row of the opcode map: its word is the one whose low byte is 0x02 and whose high byte is the family code
(30_encoding.md R82, R89). -/
theorem eq_encode_target_iff (w : CommandWord) (f : Byte) :
    w = encode (.target f) ↔ w &&& 0x00FF#16 = 0x0002#16 ∧ f = (w >>> 8).truncate 8 := by
  have harg : (w >>> 8).truncate 8 = w.extractLsb' 8 8 := rfl
  have hlow : w &&& 0x00FF#16 = 0x0002#16 ↔ w.extractLsb' 4 4 = 0#4 ∧ w.extractLsb' 0 4 = 2#4 := by
    have hmask : w.toNat &&& 255 = w.toNat % 2 ^ 8 := Nat.and_two_pow_sub_one_eq_mod w.toNat 8
    simp only [BitVec.toNat_eq, BitVec.toNat_and, BitVec.toNat_ofNat, BitVec.extractLsb'_toNat,
      Nat.shiftRight_eq_div_pow, Nat.reducePow, Nat.reduceMod, hmask]
    omega
  rw [eq_encode_iff, hlow, harg, splitWord, Instr.fields, CommandFields.mk.injEq]
  tauto

/-- Settles O2: a word decodes to a command exactly when it is that command's word, which under the masks of R89 is the
match of its row. -/
theorem decodeAndEncodeAgree : Obligations.DecodeAndEncodeAgree := by
  intro w
  have hmask : w &&& 0xFFFF#16 = w := BitVec.and_allOnes
  rw [hmask]
  exact ⟨decode_eq_valid_iff w .rstate, fun f => (decode_eq_valid_iff w _).trans (eq_encode_target_iff w f),
    decode_eq_valid_iff w .search, decode_eq_valid_iff w⟩

/-! # The reserved words -/

theorem isMalformed_eq_true_iff (c : Command) : c.isMalformed = true ↔ ∃ why, c = .malformed why := by
  cases c <;> simp [Command.isMalformed]

theorem isMalformed_eq_false_iff (c : Command) : c.isMalformed = false ↔ ∃ i, c = .valid i := by
  cases c <;> simp [Command.isMalformed]

/-- OP is reserved exactly when it is 0x0 or 0x4..0xF (30_encoding.md R81, R90). -/
theorem op_reserved_iff (op : BitVec 4) : (op = 0#4 ∨ 4 ≤ op.toNat) ↔ ¬(op = 1#4 ∨ op = 2#4 ∨ op = 3#4) := by
  revert op; decide

/-- Fields that are not well formed, by the first of them that is wrong (30_encoding.md R83, R90). -/
theorem wellFormed_eq_false_iff (c : CommandFields) :
    c.wellFormed = false ↔
      (c.op = 0#4 ∨ 4 ≤ c.op.toNat) ∨ c.rsv ≠ 0#4 ∨ ((c.op = 1#4 ∨ c.op = 3#4) ∧ c.arg ≠ 0x00#8) := by
  have hop : ¬(c.op = 2#4 ∧ (c.op = 1#4 ∨ c.op = 3#4)) := by
    rintro ⟨h, h' | h'⟩ <;> exact absurd (h.symm.trans h') (by decide)
  rw [op_reserved_iff, Bool.eq_false_iff]
  simp only [CommandFields.wellFormed, CommandFields.rsvZero, CommandFields.opAssigned, CommandFields.argAllowed, ne_eq,
    Bool.and_eq_true, Bool.or_eq_true, beq_iff_eq]
  tauto

/-- Settles O3: a word is malformed exactly when its fields are not well formed. -/
theorem malformedWordsAreTheReservedOnes : Obligations.MalformedWordsAreTheReservedOnes := by
  intro w
  rw [← isMalformed_eq_true_iff, decode_isMalformed, Bool.not_eq_true', wellFormed_eq_false_iff]
  rfl

/-- The command words: RSTATE's, SEARCH's and one for each family code (30_encoding.md R89). -/
def commandWords : Finset CommandWord :=
  {encode .rstate, encode .search} ∪ Finset.univ.image fun f => encode (.target f)

theorem encode_injective : Function.Injective encode := by
  intro i j h
  have hd := decode_encode i
  rw [h, decode_encode] at hd
  exact (Command.valid.inj hd).symm

theorem mem_commandWords (w : CommandWord) : w ∈ commandWords ↔ (decode w).isMalformed = false := by
  rw [isMalformed_eq_false_iff]
  simp only [decode_eq_valid_iff, commandWords, Finset.mem_union, Finset.mem_insert, Finset.mem_singleton,
    Finset.mem_image, Finset.mem_univ, true_and]
  constructor
  · rintro ((h | h) | ⟨f, h⟩)
    · exact ⟨_, h⟩
    · exact ⟨_, h⟩
    · exact ⟨_, h.symm⟩
  · rintro ⟨i, rfl⟩
    cases i with
    | rstate => exact .inl (.inl rfl)
    | search => exact .inl (.inr rfl)
    | target f => exact .inr ⟨f, rfl⟩

/-- R81 assigns 2 words without an operand and 256 with one. -/
theorem card_commandWords : commandWords.card = 2 + 256 := by
  have htarget : Function.Injective fun f => encode (.target f) :=
    fun f g h => Instr.target.inj (encode_injective h)
  have hdisjoint : Disjoint {encode .rstate, encode .search} (Finset.univ.image fun f => encode (.target f)) := by
    simp [Finset.disjoint_left, encode_injective.eq_iff]
  rw [commandWords, Finset.card_union_of_disjoint hdisjoint, Finset.card_image_of_injective _ htarget,
    Finset.card_univ, ← FinEnum.card_eq_fintypeCard, FinEnum.card_bitVec]
  rfl

/-- Settles O4: the words that are no command's are the rest of the 65536. -/
theorem reservedWordCount : Obligations.ReservedWordCount := by
  have hvalid : (Finset.univ.filter fun w : CommandWord => (decode w).isMalformed = false) = commandWords := by
    ext w; simp [mem_commandWords]
  have hrest : (Finset.univ.filter fun w : CommandWord => (decode w).isMalformed = true) = commandWordsᶜ := by
    ext w; simp [mem_commandWords]
  refine ⟨by rw [hvalid, card_commandWords], ?_⟩
  rw [hrest, Finset.card_compl, card_commandWords, ← FinEnum.card_eq_fintypeCard, FinEnum.card_bitVec]
  norm_num

/-- Settles O1, word by word. -/
theorem decodesSpecExampleWords : Obligations.DecodesSpecExampleWords :=
  ⟨decode_encode .rstate, decode_encode (.target 0x28#8), decode_encode (.target 0x00#8),
    decode_encode (.target 0xFF#8), decode_encode .search, ⟨.argument, by decide⟩, ⟨.reservedField, by decide⟩,
    ⟨.reservedOp, by decide⟩⟩

/-! # A CMD write that is rejected -/

/-- A write to CMD submits the low 16 bits of its value (20_memory.md R53). -/
theorem step_facing_hostWrite_cmd (s : State) (value : HostValue) :
    step (s.facing (.hostWrite Config.cmdIndex value)) = submit (commandWordOf value) s := rfl

/-- A malformed word is rejected (30_encoding.md R87). -/
theorem submit_of_malformed {w : CommandWord} {why : Malformed} (h : decode w = .malformed why) (s : State) :
    submit w s = .next s.rejectCommand := by
  simp [submit, h]

/-- A busy block rejects every command (30_encoding.md R88). -/
theorem exec_of_busy {s : State} (h : s.busy = true) (i : Instr) : exec i s = .next s.rejectCommand := by
  rw [exec_eq_accept, State.accept_of_busy ((State.busy_eq_true_iff s).1 h)]

/-- Settles O6: a malformed word is rejected, and a rejection sets CMDERR only. -/
theorem malformedWordOnlySetsCmderr : Obligations.MalformedWordOnlySetsCmderr := by
  intro s value why _ h
  exact (step_facing_hostWrite_cmd s value).trans (submit_of_malformed h s)

/-- Settles O7: a word written to a busy block is rejected as malformed or by its command's acceptance check. -/
theorem commandWhileBusyIsRejected : Obligations.CommandWhileBusyIsRejected := by
  refine fun s hb => ⟨fun value => (step_facing_hostWrite_cmd s value).trans ?_, exec_of_busy hb⟩
  cases hd : decode (commandWordOf value) with
  | malformed why => exact submit_of_malformed hd s
  | valid i => rw [submit_of_decode hd, exec_of_busy hb]; rfl

end Sys2Proof.Machine

namespace Sys2Proof.Machine

/-! # The order of enumeration -/

/-- The two identifiers have the same bits before position `p`. -/
abbrev AgreeBelow (a b : Ident) (p : Nat) : Prop := ∀ q < p, 1 ≤ q → candBit b q = candBit a q

/-- Position `p` is the first at which the two identifiers differ, and there `a` has 0 and `b` has 1. -/
structure DivergesAt (a b : Ident) (p : Nat) : Prop where
  one_le : 1 ≤ p
  le_last : p ≤ 64
  low : candBit a p = false
  high : candBit b p = true
  agree : AgreeBelow a b p

theorem AgreeBelow.symm {a b : Ident} {p : Nat} (h : AgreeBelow a b p) : AgreeBelow b a p :=
  fun q hq hq' => (h q hq hq').symm

theorem AgreeBelow.trans {a b c : Ident} {p : Nat} (hab : AgreeBelow a b p) (hbc : AgreeBelow b c p) :
    AgreeBelow a c p :=
  fun q hq hq' => (hbc q hq hq').trans (hab q hq hq')

theorem AgreeBelow.mono {a b : Ident} {p q : Nat} (h : AgreeBelow a b p) (hqp : q ≤ p) : AgreeBelow a b q :=
  fun r hr => h r (hr.trans_le hqp)

/-- Two identifiers that differ do so at a first position. -/
theorem exists_divergesAt {a b : Ident} (hne : a ≠ b) : ∃ p, DivergesAt a b p ∨ DivergesAt b a p := by
  have hdiff : ∃ p, 1 ≤ p ∧ p ≤ 64 ∧ candBit a p ≠ candBit b p := by
    by_contra hno
    push Not at hno
    exact hne (ident_ext hno)
  obtain ⟨h1, h64, hbit⟩ := Nat.find_spec hdiff
  have hagree : AgreeBelow a b (Nat.find hdiff) := by
    intro q hq hq'
    by_contra hq''
    exact Nat.find_min hdiff hq ⟨hq', hq.le.trans h64, Ne.symm hq''⟩
  refine ⟨Nat.find hdiff, ?_⟩
  cases hb : candBit b (Nat.find hdiff)
  · exact .inr ⟨h1, h64, hb, by simpa [hb] using hbit, hagree.symm⟩
  · exact .inl ⟨h1, h64, by simpa [hb] using hbit, hb, hagree⟩

/-- The key read off the first `n` positions. -/
def keyOfFirst (id : Ident) (n : Nat) : Nat :=
  (List.range n).foldl (fun acc i => 2 * acc + (candBit id (i + 1)).toNat) 0

theorem enumerationKey_eq (id : Ident) : enumerationKey id = keyOfFirst id 64 := rfl

theorem keyOfFirst_succ (id : Ident) (n : Nat) :
    keyOfFirst id (n + 1) = 2 * keyOfFirst id n + (candBit id (n + 1)).toNat := by
  simp [keyOfFirst, List.range_succ]

theorem keyOfFirst_congr {a b : Ident} {n : Nat} (h : AgreeBelow a b (n + 1)) : keyOfFirst a n = keyOfFirst b n := by
  induction n with
  | zero => rfl
  | succ n ih =>
    rw [keyOfFirst_succ, keyOfFirst_succ, ih (h.mono (Nat.le_succ _)), h (n + 1) (Nat.lt_succ_self _) (Nat.succ_pos n)]

/-- The first differing position decides the order of the keys, whatever comes after it. -/
theorem DivergesAt.keyOfFirst_lt {a b : Ident} {p n : Nat} (h : DivergesAt a b p) (hn : p ≤ n) :
    keyOfFirst a n < keyOfFirst b n := by
  induction n, hn using Nat.le_induction with
  | base =>
    obtain ⟨m, rfl⟩ := Nat.exists_eq_add_of_le' h.one_le
    rw [keyOfFirst_succ, keyOfFirst_succ, keyOfFirst_congr h.agree, h.low, h.high]
    simp
  | succ n hn ih =>
    rw [keyOfFirst_succ, keyOfFirst_succ]
    have := Bool.toNat_le (candBit a (n + 1))
    omega

/-- The key orders identifiers by the first position at which they differ (41_search.md R151). -/
theorem enumerationKey_lt_iff {a b : Ident} : enumerationKey a < enumerationKey b ↔ ∃ p, DivergesAt a b p := by
  rw [enumerationKey_eq, enumerationKey_eq]
  constructor
  · intro hlt
    have hne : a ≠ b := by rintro rfl; exact lt_irrefl _ hlt
    obtain ⟨p, h | h⟩ := exists_divergesAt hne
    · exact ⟨p, h⟩
    · exact absurd hlt (h.keyOfFirst_lt h.le_last).asymm
  · rintro ⟨p, h⟩
    exact h.keyOfFirst_lt h.le_last

theorem enumerationKey_injective : Function.Injective enumerationKey := by
  intro a b hkey
  by_contra hne
  obtain ⟨p, h | h⟩ := exists_divergesAt hne
  · exact (enumerationKey_lt_iff.2 ⟨p, h⟩).ne hkey
  · exact (enumerationKey_lt_iff.2 ⟨p, h⟩).ne' hkey

/-- The identifiers in the order of the key. -/
def ascending (devs : List Ident) : List Ident :=
  devs.mergeSort fun a b => decide (enumerationKey a ≤ enumerationKey b)

theorem ascending_perm (devs : List Ident) : (ascending devs).Perm devs := List.mergeSort_perm _ _

/-- Distinct identifiers have distinct keys, so their order is strict. -/
theorem pairwise_ascending {devs : List Ident} (hdistinct : devs.Nodup) :
    (ascending devs).Pairwise fun a b => enumerationKey a < enumerationKey b := by
  have hle : (ascending devs).Pairwise fun a b => enumerationKey a ≤ enumerationKey b := by
    simpa [ascending] using List.pairwise_mergeSort (le := fun a b : Ident => decide (enumerationKey a ≤ enumerationKey b))
      (by simpa using fun a b c => le_trans) (by simpa using fun a b => le_total _ _) devs
  have hne : (ascending devs).Pairwise (· ≠ ·) := (ascending_perm devs).nodup_iff.2 hdistinct
  exact hle.imp₂ (fun a b h h' => lt_of_le_of_ne h (enumerationKey_injective.ne h')) hne

/-! # The direction at one position of a stable bus -/

/-- The direction resolved at position `q` while `part` participates (41_search.md R126, R127). -/
def directionAt (part : List Ident) (q ld : Nat) (c : Bool) : Bool :=
  walkDirection (pairAt part q).1 (pairAt part q).2 q ld c

theorem pairAt_fst_eq_true_iff (part : List Ident) (q : Nat) :
    (pairAt part q).1 = true ↔ ∀ d ∈ part, candBit d q = true := by
  simp [pairAt, wiredAnd]

theorem pairAt_snd_eq_true_iff (part : List Ident) (q : Nat) :
    (pairAt part q).2 = true ↔ ∀ d ∈ part, candBit d q = false := by
  simp [pairAt, wiredAnd]

/-- The walk takes the direction it would choose at a discrepancy whenever some participant allows it. -/
theorem directionAt_eq_of_mem {part : List Ident} {q ld : Nat} {c : Bool} {d : Ident} (hd : d ∈ part)
    (hfork : forkDirection q ld c = candBit d q) : directionAt part q ld c = candBit d q := by
  have hall := pairAt_fst_eq_true_iff part q
  have hnone := pairAt_snd_eq_true_iff part q
  unfold directionAt walkDirection
  split
  next hne =>
    cases h1 : (pairAt part q).1
    · exact (hnone.1 (by simpa [h1] using hne) d hd).symm
    · exact (hall.1 h1 d hd).symm
  next => exact hfork

/-- A position records a pending fork exactly when the walk takes 0 there and a participant has 1. -/
theorem isPendingFork_directionAt_iff (part : List Ident) (q ld : Nat) (c : Bool) :
    isPendingFork (pairAt part q).1 (pairAt part q).2 (directionAt part q ld c) = true ↔
      directionAt part q ld c = false ∧ ∃ d ∈ part, candBit d q = true := by
  have hsnd : (pairAt part q).2 = false ↔ ∃ d ∈ part, candBit d q = true := by
    rw [← Bool.not_eq_true, pairAt_snd_eq_true_iff]
    simp
  rw [isPendingFork_eq_true_iff, hsnd]
  constructor
  · rintro ⟨-, hone, hdir⟩
    exact ⟨hdir, hone⟩
  · rintro ⟨hdir, hone⟩
    refine ⟨?_, hone, hdir⟩
    by_contra hfst
    simp [directionAt, walkDirection, hsnd.2 hone, hfst] at hdir

/-! # The walk as a path through the attached identifiers -/

/-- The devices that still participate when the walk has taken the path `c` up to position `p` (20_memory.md R74). -/
def followers (devs : List Ident) (c : Ident) (p : Nat) : List Ident := devs.filter fun d => AgreeBelow c d p

theorem mem_followers {devs : List Ident} {c d : Ident} {p : Nat} :
    d ∈ followers devs c p ↔ d ∈ devs ∧ AgreeBelow c d p := by
  simp [followers]

theorem followers_one (devs : List Ident) (c : Ident) : followers devs c 1 = devs :=
  List.filter_eq_self.2 fun d _ => decide_eq_true fun q hq hq' => absurd hq' (by omega)

theorem followers_congr {c c' : Ident} {p : Nat} (h : AgreeBelow c c' p) (devs : List Ident) :
    followers devs c' p = followers devs c p :=
  List.filter_congr fun _ _ => decide_eq_decide.2 ⟨h.trans, h.symm.trans⟩

theorem followers_succ (devs : List Ident) (c : Ident) {p : Nat} (hp : 1 ≤ p) :
    followers devs c (p + 1) = (followers devs c p).filter (fun d => candBit d p == candBit c p) := by
  rw [followers, followers, List.filter_filter]
  refine List.filter_congr fun d _ => ?_
  rw [Bool.eq_iff_iff, Bool.and_eq_true, decide_eq_true_iff, decide_eq_true_iff, beq_iff_eq]
  constructor
  · exact fun h => ⟨h p (Nat.lt_succ_self p) hp, AgreeBelow.mono h (Nat.le_succ p)⟩
  · rintro ⟨hbit, h⟩ q hq hq'
    rcases Nat.lt_succ_iff_lt_or_eq.1 hq with hlt | rfl
    · exact h q hlt hq'
    · exact hbit

/-- The path `c` takes 0 at position `p` while an attached device on it has 1 (41_search.md R156). -/
def OpenFork (devs : List Ident) (c : Ident) (p : Nat) : Prop := ∃ d ∈ devs, DivergesAt c d p

theorem openFork_iff {devs : List Ident} {c : Ident} {p : Nat} (hp : 1 ≤ p) (hp' : p ≤ 64) :
    OpenFork devs c p ↔ candBit c p = false ∧ ∃ d ∈ followers devs c p, candBit d p = true := by
  constructor
  · rintro ⟨d, hd, h⟩
    exact ⟨h.low, d, mem_followers.2 ⟨hd, h.agree⟩, h.high⟩
  · rintro ⟨hlow, d, hd, hhigh⟩
    obtain ⟨hd, hagree⟩ := mem_followers.1 hd
    exact ⟨d, hd, hp, hp', hlow, hhigh, hagree⟩

/-- An open fork is a matter of the path up to it. -/
theorem openFork_congr {devs : List Ident} {c c' : Ident} {p : Nat} (h : AgreeBelow c c' (p + 1)) (hp : 1 ≤ p)
    (hp' : p ≤ 64) : OpenFork devs c' p ↔ OpenFork devs c p := by
  rw [openFork_iff hp hp', openFork_iff hp hp', followers_congr (h.mono (Nat.le_succ p)),
    h p (Nat.lt_succ_self p) hp]

/-- `fork` is the deepest open fork of the path `c` before position `p`, or 0 when there is none. -/
structure DeepestFork (devs : List Ident) (c : Ident) (p fork : Nat) : Prop where
  lt : fork < p
  is_open : fork ≠ 0 → OpenFork devs c fork
  none_deeper : ∀ q, fork < q → q < p → ¬ OpenFork devs c q

/-- The walk that began with candidate `c₀` and LD = `ld` stands before position `p`, with the path `c` taken so far and
the pending fork `fork` (41_search.md R124 to R131). -/
structure Walked (devs : List Ident) (c₀ : Ident) (ld p : Nat) (c : Ident) (fork : Nat) : Prop where
  /-- Some device still participates. -/
  followed : followers devs c p ≠ []
  /-- The positions to come hold the previous result. -/
  kept : ∀ q, p ≤ q → q ≤ 64 → candBit c q = candBit c₀ q
  /-- The positions visited hold the direction resolved there. -/
  resolved : ∀ q, 1 ≤ q → q < p → candBit c q = directionAt (followers devs c q) q ld (candBit c₀ q)
  deepest : DeepestFork devs c p fork

theorem Walked.start {devs : List Ident} (c₀ : Ident) (ld : Nat) (hdevs : devs ≠ []) :
    Walked devs c₀ ld 1 c₀ 0 where
  followed := by rwa [followers_one]
  kept _ _ _ := rfl
  resolved q hq hq' := by omega
  deepest := ⟨Nat.one_pos, fun h => absurd rfl h, fun q hq hq' => by omega⟩

section Next
variable {devs : List Ident} {c₀ c : Ident} {ld p fork : Nat}

/-- The direction the walk takes at the position it stands before. -/
def nextDirection (devs : List Ident) (c : Ident) (ld p : Nat) : Bool :=
  directionAt (followers devs c p) p ld (candBit c p)

/-- The pending fork after the position the walk stands before. -/
def nextFork (devs : List Ident) (c : Ident) (ld p fork : Nat) : Nat :=
  if isPendingFork (pairAt (followers devs c p) p).1 (pairAt (followers devs c p) p).2 (nextDirection devs c ld p)
  then p else fork

/-- Storing at a position keeps the path before it. -/
theorem agreeBelow_setCandBit (c : Ident) {p : Nat} (b : Bool) (hp : 1 ≤ p) (hp' : p ≤ 64) :
    AgreeBelow c (setCandBit c p b) p :=
  fun q hq hq' => candBit_setCandBit_of_ne c p q b hp hp' hq' (hq.le.trans hp') hq.ne

/-- The pending fork is kept deepest when a position is stored. -/
theorem DeepestFork.next (h : DeepestFork devs c p fork) (hp : 1 ≤ p) (hp' : p ≤ 64) :
    DeepestFork devs (setCandBit c p (nextDirection devs c ld p)) (p + 1) (nextFork devs c ld p fork) := by
  have hagree := agreeBelow_setCandBit c (nextDirection devs c ld p) hp hp'
  have hhere : OpenFork devs (setCandBit c p (nextDirection devs c ld p)) p ↔
      isPendingFork (pairAt (followers devs c p) p).1 (pairAt (followers devs c p) p).2
        (nextDirection devs c ld p) = true := by
    rw [openFork_iff hp hp', candBit_setCandBit_self c p _ hp hp', followers_congr hagree]
    exact (isPendingFork_directionAt_iff _ _ _ _).symm
  have hbefore : ∀ q, 1 ≤ q → q < p →
      (OpenFork devs (setCandBit c p (nextDirection devs c ld p)) q ↔ OpenFork devs c q) :=
    fun q hq hqp => openFork_congr (hagree.mono hqp) hq (hqp.le.trans hp')
  unfold nextFork
  split
  next hpending =>
    exact ⟨Nat.lt_succ_self p, fun _ => hhere.2 hpending, fun q hq hq' => by omega⟩
  next hclosed =>
    refine ⟨Nat.lt_succ_of_lt h.lt, fun hne => (hbefore fork (Nat.pos_of_ne_zero hne) h.lt).2 (h.is_open hne), ?_⟩
    intro q hq hq'
    rcases Nat.lt_succ_iff_lt_or_eq.1 hq' with hlt | rfl
    · rw [hbefore q (by omega) hlt]
      exact h.none_deeper q hq hlt
    · rwa [hhere]

/-- One position of the walk. -/
theorem Walked.next (h : Walked devs c₀ ld p c fork) (hp : 1 ≤ p) (hp' : p ≤ 64) :
    Walked devs c₀ ld (p + 1) (setCandBit c p (nextDirection devs c ld p)) (nextFork devs c ld p fork) := by
  have hagree := agreeBelow_setCandBit c (nextDirection devs c ld p) hp hp'
  refine ⟨?_, fun q hq hq' => ?_, fun q hq hq' => ?_, h.deepest.next hp hp'⟩
  · rw [followers_succ _ _ hp, followers_congr hagree, candBit_setCandBit_self c p _ hp hp']
    exact participant_follows h.followed
  · rw [candBit_setCandBit_of_ne c p q _ hp hp' (by omega) hq' (by omega)]
    exact h.kept q (by omega) hq'
  · rcases Nat.lt_succ_iff_lt_or_eq.1 hq' with hlt | rfl
    · rw [hagree q hlt hq, followers_congr (hagree.mono hlt.le)]
      exact h.resolved q hq hlt
    · rw [candBit_setCandBit_self c q _ hp hp', followers_congr hagree, ← h.kept q le_rfl hp']
      rfl

end Next

end Sys2Proof.Machine

namespace Sys2Proof.Machine

/-! # Which device a completed walk ends on -/

section Completed
variable {devs : List Ident} {c₀ c d : Ident} {ld fork p : Nat}

/-- A completed walk has taken the path of an attached device (20_memory.md R74). -/
theorem Walked.mem (h : Walked devs c₀ ld 65 c fork) : c ∈ devs := by
  obtain ⟨d, hd⟩ := List.exists_mem_of_ne_nil _ h.followed
  obtain ⟨hd, hagree⟩ := mem_followers.1 hd
  have hdc : d = c := ident_ext fun q hq hq' => hagree q (by omega) hq
  exact hdc ▸ hd

/-- A device that participates up to a position, and has there the bit a discrepancy would resolve to, is followed. -/
theorem Walked.follows (h : Walked devs c₀ ld 65 c fork) (hd : d ∈ devs) (hp : 1 ≤ p) (hp' : p ≤ 64)
    (hagree : AgreeBelow c d p) (hfork : forkDirection p ld (candBit c₀ p) = candBit d p) :
    candBit c p = candBit d p := by
  rw [h.resolved p hp (by omega)]
  exact directionAt_eq_of_mem (mem_followers.2 ⟨hd, hagree⟩) hfork

/-- The walk from candidate `c₀` and LD = `ld` is aimed at the device `d`: at any device when LD = 0, and otherwise at
those that leave the previous path at LD (41_search.md R127). -/
def Aimed (c₀ : Ident) (ld : Nat) (d : Ident) : Prop := ld = 0 ∨ DivergesAt c₀ d ld

/-- Up to LD an aimed device has the bits a discrepancy resolves to. -/
theorem Aimed.forkDirection_eq (h : Aimed c₀ ld d) (hp : 1 ≤ p) (hle : p ≤ ld) :
    forkDirection p ld (candBit c₀ p) = candBit d p := by
  rcases h with rfl | h
  · omega
  · rcases hle.lt_or_eq with hlt | rfl
    · rw [forkDirection, if_pos hlt, h.agree p hlt hp]
    · rw [forkDirection, if_neg (lt_irrefl p), if_pos rfl, h.high]

/-- Above LD a discrepancy resolves to 0. -/
theorem forkDirection_of_lt (c : Bool) (h : ld < p) : forkDirection p ld c = false :=
  (forkDirection_eq_false_iff p ld c).2 (.inr h)

/-- An aimed device that the walk does not end on leaves its path above LD, upwards. -/
theorem Walked.divergesAt_of_aimed (h : Walked devs c₀ ld 65 c fork) (hd : d ∈ devs) (ha : Aimed c₀ ld d)
    (hne : d ≠ c) : ∃ p, ld < p ∧ DivergesAt c d p := by
  obtain ⟨p, hcd | hdc⟩ := exists_divergesAt (Ne.symm hne)
  · refine ⟨p, ?_, hcd⟩
    by_contra hle
    have hbit := h.follows hd hcd.one_le hcd.le_last hcd.agree (ha.forkDirection_eq hcd.one_le (by omega))
    simp [hcd.low, hcd.high] at hbit
  · exfalso
    have hfork : forkDirection p ld (candBit c₀ p) = candBit d p := by
      rcases le_or_gt p ld with hle | hlt
      · exact ha.forkDirection_eq hdc.one_le hle
      · rw [forkDirection_of_lt _ hlt, hdc.low]
    have hbit := h.follows hd hdc.one_le hdc.le_last hdc.agree.symm hfork
    simp [hdc.low, hdc.high] at hbit

/-- With a device to aim at, the walk ends on one. -/
theorem Walked.aimed (h : Walked devs c₀ ld 65 c fork) (hd : d ∈ devs) (ha : Aimed c₀ ld d) : Aimed c₀ ld c := by
  by_cases hdc : d = c
  · exact hdc ▸ ha
  obtain ⟨p, hlt, hcd⟩ := h.divergesAt_of_aimed hd ha hdc
  rcases ha with rfl | ha
  · exact .inl rfl
  · have hld := (hcd.agree ld hlt ha.one_le).symm
    exact .inr ⟨ha.one_le, ha.le_last, ha.low, hld.trans ha.high,
      ha.agree.trans (hcd.agree.mono hlt.le).symm⟩

end Completed

/-! # A SEARCH on a stable bus -/

/-- One more poll performs the outstanding transaction, if there is one. -/
theorem System.wait_succ {β : Type} {ch : BitChannel β} (x : System β) (n : Nat) :
    x.wait ch (n + 1) = (x.transact ch).wait ch n := by
  by_cases h : x.block.phase = .idle
  · rw [System.transact_of_idle h, System.wait_of_idle h, System.wait_of_idle h]
  · exact System.wait_of_busy h n

/-- The block when both bits at a position have been read and the pair is resolved (41_search.md R143, R144). -/
def System.resolvedBlock (x : System RefBus) : State :=
  State.resolvePair { x.block with
    idb := (pairAt x.bus.part x.bus.q).1, cmpb := (pairAt x.bus.part x.bus.q).2, phase := .rdCmp
    trace := .read (pairAt x.bus.part x.bus.q).2 :: .read (pairAt x.bus.part x.bus.q).1 :: x.block.trace }

/-- The three transactions at one position (41_search.md R137). -/
theorem refBus_position (x : System RefBus) (hp : x.block.phase = .rdId) (hm : x.bus.mode = .searching)
    (hf : x.bus.fault = .none) (hk : x.bus.k = 0) (hpart : x.bus.part ≠ []) (n : Nat) :
    x.wait RefBus.channel (n + 3) =
      System.wait RefBus.channel n
        { block := x.resolvedBlock.wrDirStep, bus := x.bus.onDirection x.resolvedBlock.dir } := by
  rw [System.wait_succ, System.wait_succ, System.wait_succ, refBus_pair x hp hm hf hk hpart]
  exact congrArg (System.wait RefBus.channel n)
    (refBus_direction { block := x.resolvedBlock, bus := { x.bus with k := 2 } } rfl hm)

/-- The SEARCH that the idle system `x` accepted stands before position `p` of its walk. -/
structure WalksAt (x : System RefBus) (p : Nat) (y : System RefBus) : Prop where
  phase : y.block.phase = .rdId
  pos : y.block.pos.toNat = p
  terminal : y.block.terminal = false
  ld : y.block.ld = x.block.ld
  trace_length : y.block.trace.length = 9 + 3 * (p - 1)
  devs : y.bus.devs = x.bus.devs
  fault : y.bus.fault = .none
  mode : y.bus.mode = .searching
  slot : y.bus.q = p ∧ y.bus.k = 0
  part : y.bus.part = followers x.bus.devs y.block.cand p
  walked : Walked x.bus.devs x.block.cand x.block.ld.toNat p y.block.cand y.block.lastZero.toNat

section Walk
variable {x y : System RefBus} {p : Nat}

theorem WalksAt.dir_resolvedBlock (h : WalksAt x p y) :
    y.resolvedBlock.dir = nextDirection x.bus.devs y.block.cand x.block.ld.toNat p := by
  simp only [System.resolvedBlock, State.resolvePair_dir, State.directionHere, h.part, h.slot.1, h.pos, h.ld]
  rfl

theorem WalksAt.lastZero_resolvedBlock (h : WalksAt x p y) :
    y.resolvedBlock.lastZero.toNat =
      nextFork x.bus.devs y.block.cand x.block.ld.toNat p y.block.lastZero.toNat := by
  have hz : y.resolvedBlock.lastZero =
      if isPendingFork (pairAt y.bus.part y.bus.q).1 (pairAt y.bus.part y.bus.q).2 y.resolvedBlock.dir
      then y.block.pos else y.block.lastZero := rfl
  rw [hz, apply_ite BitVec.toNat, h.dir_resolvedBlock, h.part, h.slot.1, h.pos]
  rfl

/-- The pair is resolved and the direction stored: the walk has visited one position more. -/
theorem WalksAt.walked_storeDir (h : WalksAt x p y) (hp : 1 ≤ p) (hp' : p ≤ 64) :
    Walked x.bus.devs x.block.cand x.block.ld.toNat (p + 1) y.resolvedBlock.storeDir.cand
      y.resolvedBlock.lastZero.toNat := by
  have hcand : y.resolvedBlock.storeDir.cand =
      setCandBit y.block.cand p (nextDirection x.bus.devs y.block.cand x.block.ld.toNat p) := by
    rw [State.storeDir_cand, h.dir_resolvedBlock, ← h.pos]
    rfl
  rw [hcand, h.lastZero_resolvedBlock]
  exact h.walked.next hp hp'

/-- The devices that disagree with the direction drop out (20_memory.md R74). -/
theorem WalksAt.part_onDirection (h : WalksAt x p y) (hp : 1 ≤ p) (hp' : p ≤ 64) :
    (y.bus.onDirection y.resolvedBlock.dir).part = followers x.bus.devs y.resolvedBlock.storeDir.cand (p + 1) := by
  have hcand : y.resolvedBlock.storeDir.cand = setCandBit y.block.cand p y.resolvedBlock.dir := by
    rw [State.storeDir_cand, ← h.pos]
    rfl
  rw [hcand, followers_succ _ _ hp, followers_congr (agreeBelow_setCandBit _ _ hp hp'),
    candBit_setCandBit_self _ _ _ hp hp', ← h.part, ← h.slot.1]
  rfl

theorem WalksAt.wait_add_three (h : WalksAt x p y) (n : Nat) :
    y.wait RefBus.channel (n + 3) =
      System.wait RefBus.channel n
        { block := y.resolvedBlock.wrDirStep, bus := y.bus.onDirection y.resolvedBlock.dir } :=
  refBus_position y h.phase h.mode h.fault h.slot.2 (h.part ▸ h.walked.followed) n

/-- Before position 64 the walk goes on to the next position (41_search.md R145). -/
theorem WalksAt.next (h : WalksAt x p y) (hp : 1 ≤ p) (hp' : p < 64) :
    WalksAt x (p + 1) { block := y.resolvedBlock.wrDirStep, bus := y.bus.onDirection y.resolvedBlock.dir } := by
  have hpos : y.resolvedBlock.pos.toNat = p := h.pos
  have hstep : y.resolvedBlock.wrDirStep =
      { y.resolvedBlock.storeDir with pos := y.resolvedBlock.pos + 1#7, phase := .rdId } := by
    rw [State.wrDirStep, if_pos (by rw [BitVec.lt_def, hpos]; exact hp')]
  rw [hstep]
  exact {
    phase := rfl
    pos := by simp [hpos]; omega
    terminal := h.terminal
    ld := h.ld
    trace_length := by simp [System.resolvedBlock, h.trace_length]; omega
    devs := h.devs
    fault := h.fault
    mode := h.mode
    slot := ⟨congrArg (· + 1) h.slot.1, rfl⟩
    part := h.part_onDirection hp hp'.le
    walked := h.walked_storeDir hp hp'.le }

/-- From position 1 the walk comes to position 64. -/
theorem WalksAt.wait_to_last (h : WalksAt x 1 y) (n : Nat) :
    ∃ z, WalksAt x 64 z ∧ y.wait RefBus.channel (n + 189) = z.wait RefBus.channel n := by
  have hpositions : ∀ m < 64, ∀ n, ∃ z, WalksAt x (m + 1) z ∧
      y.wait RefBus.channel (n + 3 * m) = z.wait RefBus.channel n := by
    intro m hm
    induction m with
    | zero => exact fun n => ⟨y, h, rfl⟩
    | succ m ih =>
      intro n
      obtain ⟨z, hz, hwait⟩ := ih (by omega) (n + 3)
      rw [hz.wait_add_three] at hwait
      exact ⟨_, hz.next (by omega) (by omega), by rw [← hwait]; congr 1; omega⟩
  exact hpositions 63 (by omega) n

end Walk

/-- The SEARCH that the idle system `x` accepted has ended in `y`, its walk completed on the path `c` with the pending
fork `fork` (41_search.md R133, R134, R135). -/
structure WalkCompletes (x y : System RefBus) (c : Ident) (fork : Nat) : Prop where
  walked : Walked x.bus.devs x.block.cand x.block.ld.toNat 65 c fork
  phase : y.block.phase = .idle
  trace_length : y.block.trace.length = 201
  devs : y.bus.devs = x.bus.devs
  fault : y.bus.fault = .none
  degenerate : familyByte c = 0x00#8 →
    y.block.outcome = some .degenerateResult ∧ y.block.found = false ∧ y.block.cleared
  found : familyByte c ≠ 0x00#8 →
    y.block.outcome = some .found ∧ y.block.found = true ∧ y.block.cand = c ∧ y.block.ld.toNat = fork ∧
      y.block.terminal = decide (fork = 0)

/-- Position 64 completes the walk. -/
theorem WalksAt.completes {x y : System RefBus} (h : WalksAt x 64 y) :
    WalkCompletes x { block := y.resolvedBlock.wrDirStep, bus := y.bus.onDirection y.resolvedBlock.dir }
      y.resolvedBlock.storeDir.cand y.resolvedBlock.lastZero.toNat := by
  have hpos : y.resolvedBlock.pos.toNat = 64 := h.pos
  have hterminal : y.resolvedBlock.terminal = false := h.terminal
  have hlength : y.resolvedBlock.storeDir.trace.length = 201 := by
    simp [System.resolvedBlock, h.trace_length]
  have hstep : y.resolvedBlock.wrDirStep = y.resolvedBlock.storeDir.completeWalk := by
    rw [State.wrDirStep, if_neg (by simp [BitVec.lt_def, hpos])]
  have hwalked := h.walked_storeDir (by omega) le_rfl
  rw [hstep]
  rcases y.resolvedBlock.storeDir.completeWalk_cases with ⟨hfam, hc⟩ | ⟨hfam, hc⟩ <;> rw [hc]
  · exact ⟨hwalked, rfl, hlength, h.devs, h.fault, fun _ => ⟨rfl, rfl, rfl, rfl, rfl, rfl⟩,
      fun hne => absurd hfam hne⟩
  · refine ⟨hwalked, rfl, hlength, h.devs, h.fault, fun h0 => absurd h0 hfam, fun _ => ⟨rfl, rfl, rfl, rfl, ?_⟩⟩
    rw [Bool.eq_iff_iff]
    simp [hterminal, BitVec.toNat_eq]

section Search
variable {x : System RefBus}

/-- A SEARCH accepted with terminal = 0 waits for its bus reset (41_search.md R121). -/
theorem System.command_search_starts {β : Type} (x : System β) (hidle : x.block.phase = .idle)
    (hterminal : x.block.terminal = false) :
    (x.command (encode .search)).bus = x.bus ∧ (x.command (encode .search)).block =
      { x.block with
        cmderr := false, found := false, lastZero := 0#7, phase := .busRst, outcome := none, trace := [] } := by
  rw [System.command_search_of_idle x hidle hterminal]
  exact ⟨rfl, rfl⟩

/-- The nine opening transactions of a SEARCH on a stable bus with a device (41_search.md R122, R123). -/
theorem search_walksAt (hdevs : x.bus.devs ≠ []) (hfault : x.bus.fault = .none) (hidle : x.block.phase = .idle)
    (hterminal : x.block.terminal = false) :
    ∃ y, WalksAt x 1 y ∧ x.search RefBus.channel = y.wait RefBus.channel 192 := by
  obtain ⟨hbus, hblock⟩ := x.command_search_starts hidle hterminal
  have hphase : (x.command (encode .search)).block.phase = .busRst := by rw [hblock]
  refine ⟨_, ?_, refBus_opening _ hphase (hbus ▸ hdevs) (hbus ▸ hfault) 192⟩
  rw [hbus, hblock]
  exact {
    phase := rfl
    pos := rfl
    terminal := hterminal
    ld := rfl
    trace_length := rfl
    devs := rfl
    fault := hfault
    mode := rfl
    slot := ⟨rfl, rfl⟩
    part := (followers_one _ _).symm
    walked := .start _ _ hdevs }

/-- On a stable bus with a device, every SEARCH from an idle block with terminal = 0 completes its walk (41_search.md
R120). -/
theorem search_walkCompletes (hdevs : x.bus.devs ≠ []) (hfault : x.bus.fault = .none) (hidle : x.block.phase = .idle)
    (hterminal : x.block.terminal = false) : ∃ c fork, WalkCompletes x (x.search RefBus.channel) c fork := by
  obtain ⟨y, hy, hsearch⟩ := search_walksAt hdevs hfault hidle hterminal
  obtain ⟨z, hz, hwait⟩ := hy.wait_to_last 3
  rw [hsearch, hwait, hz.wait_add_three 0]
  exact ⟨_, _, hz.completes⟩

/-- With terminal = 1 a SEARCH ends at once as Exhausted (41_search.md R121). -/
theorem search_exhausted {β : Type} {ch : BitChannel β} {x : System β} (hidle : x.block.phase = .idle)
    (hterminal : x.block.terminal = true) :
    x.search ch = { x with block := { x.block with
      cmderr := false, found := false, trace := [], outcome := some .exhausted } } := by
  have hcommand : x.command (encode .search) = { x with block := { x.block with
      cmderr := false, found := false, trace := [], outcome := some .exhausted } } := by
    simp [System.command, State.feed_command hidle .search (decode_encode _), acceptedEffect, State.startSearch,
      hterminal, State.finish, hidle]
  have hidle' : (x.command (encode .search)).block.phase = .idle := by rw [hcommand]; exact hidle
  rw [System.search, System.wait_of_idle hidle', hcommand]

/-- With no device attached a SEARCH ends without a presence answer (41_search.md R122). -/
theorem search_busEmpty (hdevs : x.bus.devs = []) (hfault : x.bus.fault = .none) (hidle : x.block.phase = .idle)
    (hterminal : x.block.terminal = false) :
    (x.search RefBus.channel).block.found = false ∧
      (x.search RefBus.channel).block.outcome = some .busEmptyOrFaulted := by
  obtain ⟨hbus, hblock⟩ := x.command_search_starts hidle hterminal
  have hphase : (x.command (encode .search)).block.phase = .busRst := by rw [hblock]
  have hrequest : (x.command (encode .search)).block.request = some .reset := by simp [State.request, hphase]
  have hanswer : RefBus.channel.answer (x.command (encode .search)).bus .reset = some (x.bus.onReset.1, false) := by
    simp [RefBus.channel, RefBus.onReset, hbus, hdevs, hfault]
  rw [System.search, System.wait_succ, System.transact_of_answer hrequest hanswer, State.engineStep_busRst hphase,
    System.wait_of_idle rfl]
  exact ⟨rfl, rfl⟩

end Search

end Sys2Proof.Machine

namespace Sys2Proof.Machine

/-! # Enumeration -/

/-- A block between two SEARCHes of an enumeration: what the last one found, and its pending fork, is still there
(41_search.md R150, R156). -/
structure Enumerating (x : System RefBus) : Prop where
  fault : x.bus.fault = .none
  idle : x.block.phase = .idle
  deepest : x.block.terminal = false → x.block.ld.toNat ≠ 0 →
    DeepestFork x.bus.devs x.block.cand 65 x.block.ld.toNat

/-- The enumeration has still to return `d`: nothing is returned yet, or the last result comes before `d`. -/
def State.Awaits (s : State) (d : Ident) : Prop :=
  s.terminal = false ∧ (s.ld.toNat = 0 ∨ enumerationKey s.cand < enumerationKey d)

section Enumerating
variable {x : System RefBus} {c d : Ident} {fork : Nat}

/-- Every awaited device leaves the last result at or before its pending fork. -/
theorem Enumerating.divergesAt (hx : Enumerating x) (hd : d ∈ x.bus.devs) (ha : x.block.Awaits d)
    (hld : x.block.ld.toNat ≠ 0) : ∃ p ≤ x.block.ld.toNat, DivergesAt x.block.cand d p := by
  obtain ⟨hterminal, hzero | hkey⟩ := ha
  · exact absurd hzero hld
  obtain ⟨p, hp⟩ := enumerationKey_lt_iff.1 hkey
  refine ⟨p, ?_, hp⟩
  by_contra hlt
  exact (hx.deepest hterminal hld).none_deeper p (by omega) (Nat.lt_succ_of_le hp.le_last) ⟨d, hd, hp⟩

/-- An enumeration that awaits a device has one to aim at (41_search.md R156). -/
theorem Enumerating.exists_aimed (hx : Enumerating x) (hd : d ∈ x.bus.devs) (ha : x.block.Awaits d) :
    ∃ a ∈ x.bus.devs, Aimed x.block.cand x.block.ld.toNat a := by
  by_cases hld : x.block.ld.toNat = 0
  · exact ⟨d, hd, .inl hld⟩
  · obtain ⟨a, hmem, hdiv⟩ := (hx.deepest ha.1 hld).is_open hld
    exact ⟨a, hmem, .inr hdiv⟩

/-- The walk ends on the first of the awaited devices. -/
theorem Walked.le_of_awaits (hx : Enumerating x)
    (h : Walked x.bus.devs x.block.cand x.block.ld.toNat 65 c fork) (hd : d ∈ x.bus.devs) (ha : x.block.Awaits d) :
    d = c ∨ enumerationKey c < enumerationKey d := by
  rw [or_iff_not_imp_left, enumerationKey_lt_iff]
  intro hne
  have haimed (hd' : Aimed x.block.cand x.block.ld.toNat d) : ∃ p, DivergesAt c d p := by
    obtain ⟨p, -, hp⟩ := h.divergesAt_of_aimed hd hd' hne
    exact ⟨p, hp⟩
  by_cases hld : x.block.ld.toNat = 0
  · exact haimed (.inl hld)
  obtain ⟨p, hle, hp⟩ := hx.divergesAt hd ha hld
  rcases hle.eq_or_lt with rfl | hlt
  · exact haimed (.inr hp)
  · obtain ⟨a, hmem, haim⟩ := hx.exists_aimed hd ha
    obtain hzero | hc := h.aimed hmem haim
    · exact absurd hzero hld
    · exact ⟨p, hp.one_le, hp.le_last, (hc.agree p hlt hp.one_le).trans hp.low, hp.high,
        (hc.agree.mono hlt.le).symm.trans hp.agree⟩

/-- The walk ends on an awaited device. -/
theorem Walked.awaits (hx : Enumerating x)
    (h : Walked x.bus.devs x.block.cand x.block.ld.toNat 65 c fork) (hd : d ∈ x.bus.devs) (ha : x.block.Awaits d) :
    x.block.Awaits c := by
  obtain ⟨a, hmem, haim⟩ := hx.exists_aimed hd ha
  exact ⟨ha.1, (h.aimed hmem haim).imp_right fun hc => enumerationKey_lt_iff.2 ⟨_, hc⟩⟩

/-- The devices awaited are the one the walk ends on and those after it. -/
theorem Walked.awaits_iff (hx : Enumerating x)
    (h : Walked x.bus.devs x.block.cand x.block.ld.toNat 65 c fork) {a : Ident} (ha : a ∈ x.bus.devs)
    (hawaits : x.block.Awaits a) (hd : d ∈ x.bus.devs) :
    x.block.Awaits d ↔ d = c ∨ enumerationKey c < enumerationKey d := by
  refine ⟨h.le_of_awaits hx hd, ?_⟩
  obtain ⟨hterminal, hc⟩ := h.awaits hx ha hawaits
  rintro (rfl | hlt)
  · exact ⟨hterminal, hc⟩
  · exact ⟨hterminal, hc.imp_right fun hkey => hkey.trans hlt⟩

/-- What a SEARCH that returns the device `c` leaves of an enumeration. -/
structure Returns (x y : System RefBus) (c : Ident) : Prop where
  enumerating : Enumerating y
  devs : y.bus.devs = x.bus.devs
  mem : c ∈ x.bus.devs
  found : y.block.found = true
  cand : y.block.cand = c
  before : ∀ d ∈ x.bus.devs, (x.block.Awaits d ↔ d = c ∨ enumerationKey c < enumerationKey d)
  after : ∀ d ∈ x.bus.devs, (y.block.Awaits d ↔ enumerationKey c < enumerationKey d)

/-- After a Found the devices awaited are those after the one found: a pending fork is left exactly when there are any
(41_search.md R156). -/
theorem WalkCompletes.awaits_iff {y : System RefBus} (h : WalkCompletes x y c fork) (hfam : familyByte c ≠ 0x00#8)
    (hd : d ∈ x.bus.devs) : y.block.Awaits d ↔ enumerationKey c < enumerationKey d := by
  obtain ⟨-, -, hcand, hld, hterminal⟩ := h.found hfam
  rw [State.Awaits, hcand, hld, hterminal, decide_eq_false_iff_not]
  constructor
  · rintro ⟨hfork, hzero | hlt⟩
    · exact absurd hzero hfork
    · exact hlt
  · intro hlt
    refine ⟨?_, .inr hlt⟩
    rintro rfl
    obtain ⟨p, hp⟩ := enumerationKey_lt_iff.1 hlt
    exact h.walked.deepest.none_deeper p hp.one_le (Nat.lt_succ_of_le hp.le_last) ⟨d, hd, hp⟩

/-- After a Found the enumeration goes on from the device found. -/
theorem WalkCompletes.enumerating {y : System RefBus} (h : WalkCompletes x y c fork)
    (hfam : familyByte c ≠ 0x00#8) : Enumerating y := by
  obtain ⟨-, -, hcand, hld, -⟩ := h.found hfam
  refine ⟨h.fault, h.phase, fun _ _ => ?_⟩
  rw [h.devs, hcand, hld]
  exact h.walked.deepest

/-- While a device is awaited, SEARCH returns the first one (41_search.md R150, R151). -/
theorem Enumerating.search_returns (hx : Enumerating x) (hfam : ∀ d ∈ x.bus.devs, familyByte d ≠ 0x00#8)
    (hd : d ∈ x.bus.devs) (ha : x.block.Awaits d) : ∃ c, Returns x (x.search RefBus.channel) c := by
  obtain ⟨c, fork, h⟩ := search_walkCompletes (List.ne_nil_of_mem hd) hx.fault hx.idle ha.1
  have hmem := h.walked.mem
  obtain ⟨-, hfound, hcand, -, -⟩ := h.found (hfam c hmem)
  exact ⟨c, h.enumerating (hfam c hmem), h.devs, hmem, hfound, hcand,
    fun a ha' => h.walked.awaits_iff hx hd ha ha', fun a ha' => h.awaits_iff (hfam c hmem) ha'⟩

/-- When no device is awaited, SEARCH finds nothing (41_search.md R152). -/
theorem Enumerating.search_finds_nothing (hx : Enumerating x) (hnone : ∀ d ∈ x.bus.devs, ¬ x.block.Awaits d) :
    (x.search RefBus.channel).block.found = false := by
  cases hterminal : x.block.terminal with
  | true => rw [search_exhausted hx.idle hterminal]
  | false =>
    have hdevs : x.bus.devs = [] := by
      by_contra hne
      obtain ⟨d, hd⟩ := List.exists_mem_of_ne_nil _ hne
      by_cases hld : x.block.ld.toNat = 0
      · exact hnone d hd ⟨hterminal, .inl hld⟩
      · obtain ⟨a, ha, hdiv⟩ := (hx.deepest hterminal hld).is_open hld
        exact hnone a ha ⟨hterminal, .inr (enumerationKey_lt_iff.2 ⟨_, hdiv⟩)⟩
    exact (search_busEmpty hdevs hx.fault hx.idle hterminal).1

/-- After the first device of an ascending list is returned, the rest of the list is awaited. -/
theorem Returns.awaits_rest {y : System RefBus} {first : Ident} {rest : List Ident} (h : Returns x y c)
    (hsorted : (first :: rest).Pairwise fun a b => enumerationKey a < enumerationKey b)
    (hrest : ∀ d, d ∈ first :: rest ↔ d ∈ x.bus.devs ∧ x.block.Awaits d) :
    c = first ∧ ∀ d, d ∈ rest ↔ d ∈ y.bus.devs ∧ y.block.Awaits d := by
  obtain ⟨hfirst, -⟩ := List.pairwise_cons.1 hsorted
  have hc : c = first := by
    have hmem : c ∈ first :: rest := (hrest c).2 ⟨h.mem, (h.before c h.mem).2 (.inl rfl)⟩
    obtain ⟨hdev, hawaits⟩ := (hrest first).1 List.mem_cons_self
    rcases (h.before first hdev).1 hawaits with heq | hlt
    · exact heq.symm
    · rcases List.mem_cons.1 hmem with heq | hin
      · exact heq
      · exact absurd (hfirst c hin) hlt.asymm
  subst hc
  refine ⟨rfl, fun d => ?_⟩
  rw [h.devs]
  constructor
  · intro hd
    obtain ⟨hdev, -⟩ := (hrest d).1 (List.mem_cons_of_mem _ hd)
    exact ⟨hdev, (h.after d hdev).2 (hfirst d hd)⟩
  · rintro ⟨hdev, hawaits⟩
    have hlt := (h.after d hdev).1 hawaits
    rcases List.mem_cons.1 ((hrest d).2 ⟨hdev, (h.before d hdev).2 (.inr hlt)⟩) with rfl | hd
    · exact absurd hlt (lt_irrefl _)
    · exact hd

end Enumerating

/-! # The host program ENUMERATE -/

/-- STATUS.FOUND is the flag FOUND (10_state.md R33). -/
theorem State.getLsbD_statusReg_found (s : State) : s.statusReg.getLsbD 1 = s.found := by
  have hread : s.readReg Config.statusIndex = s.statusReg.setWidth 64 := rfl
  have hbit := s.getLsbD_readReg_status 1
  rw [hread, BitVec.getLsbD_setWidth] at hbit
  simpa using hbit

/-- A host read fed to a block leaves a record of the read and nothing else (20_memory.md R54). -/
theorem State.feed_hostRead (s : State) (idx : RegIndex) : s.feed (.hostRead idx) = s.hostRead idx := rfl

/-- The system after a host read. -/
def System.hostRead {β : Type} (x : System β) (r : HostReg) : System β :=
  { x with block := x.block.hostRead r.index }

@[simp] theorem System.bus_hostRead {β : Type} (x : System β) (r : HostReg) : (x.hostRead r).bus = x.bus := rfl

/-- A host read is no part of an enumeration: it changes no register (20_memory.md R54). -/
theorem Enumerating.hostRead {x : System RefBus} (h : Enumerating x) (r : HostReg) : Enumerating (x.hostRead r) :=
  ⟨h.fault, h.idle, h.deepest⟩

theorem System.awaits_hostRead {β : Type} (x : System β) (r : HostReg) (d : Ident) :
    (x.hostRead r).block.Awaits d ↔ x.block.Awaits d := Iff.rfl

section Rounds
variable {β : Type} {ch : BitChannel β} {x : Session β}

/-- SEARCH, WAIT, READ STATUS: the first three lines of a round (30_encoding.md R93). -/
theorem Session.sys_searchRound (x : Session β) :
    (x.runAll ch [.command .search, .wait, .read .status]).sys = (x.sys.search ch).hostRead .status := by
  simp only [Session.runAll, Session.run, State.feed_hostRead, System.hostRead, System.search]

/-- The bit of STATUS that a round of ENUMERATE tests is the flag FOUND its SEARCH left. -/
theorem Session.found_searchRound (x : Session β) :
    (x.runAll ch [.command .search, .wait, .read .status]).sys.block.statusReg.getLsbD 1 =
      (x.sys.search ch).block.found := by
  rw [State.getLsbD_statusReg_found, Session.sys_searchRound]
  rfl

/-- A round of ENUMERATE that finds nothing ends the loop (30_encoding.md R93). -/
theorem Session.enumerateLoop_of_not_found (n : Nat) (h : (x.sys.search ch).block.found = false) :
    (x.enumerateLoop ch (n + 1)).1 = [] := by
  rw [Session.enumerateLoop, x.found_searchRound, h]
  rfl

/-- A round that finds an identifier reads it from CAND, and the loop goes on from there (30_encoding.md R93). -/
theorem Session.enumerateLoop_of_found (n : Nat) (h : (x.sys.search ch).block.found = true) :
    ∃ y : Session β, y.sys = ((x.sys.search ch).hostRead .status).hostRead .cand ∧
      (x.enumerateLoop ch (n + 1)).1 = packIdent (x.sys.search ch).block.cand :: (y.enumerateLoop ch n).1 := by
  have hread (y : Session β) : (y.run ch (.read .cand)).sys = y.sys.hostRead .cand := rfl
  have hcand : (x.runAll ch [.command .search, .wait, .read .status]).sys.block.candReg =
      packIdent (x.sys.search ch).block.cand := by rw [Session.sys_searchRound]; rfl
  refine ⟨(x.runAll ch [.command .search, .wait, .read .status]).run ch (.read .cand), ?_, ?_⟩
  · rw [hread, Session.sys_searchRound]
  · rw [Session.enumerateLoop, x.found_searchRound, h, hcand, if_pos rfl]

end Rounds

/-- ENUMERATE's loop reads the devices awaited, when it has a round for each and one more (30_encoding.md R93). -/
theorem Enumerating.enumerateLoop_eq {x : Session RefBus} {rest : List Ident} {n : Nat} (hx : Enumerating x.sys)
    (hfam : ∀ d ∈ x.sys.bus.devs, familyByte d ≠ 0x00#8)
    (hsorted : rest.Pairwise fun a b => enumerationKey a < enumerationKey b)
    (hrest : ∀ d, d ∈ rest ↔ d ∈ x.sys.bus.devs ∧ x.sys.block.Awaits d) (hn : rest.length < n) :
    (x.enumerateLoop RefBus.channel n).1 = rest.map packIdent := by
  induction rest generalizing x n with
  | nil =>
    have hnone : ∀ d ∈ x.sys.bus.devs, ¬ x.sys.block.Awaits d :=
      fun d hd ha => List.not_mem_nil ((hrest d).2 ⟨hd, ha⟩)
    obtain _ | n := n
    · exact absurd hn (Nat.not_lt_zero _)
    exact Session.enumerateLoop_of_not_found _ (hx.search_finds_nothing hnone)
  | cons first rest ih =>
    obtain ⟨hdev, hawaits⟩ := (hrest first).1 List.mem_cons_self
    obtain ⟨c, hc⟩ := hx.search_returns hfam hdev hawaits
    obtain ⟨rfl, hrest'⟩ := hc.awaits_rest hsorted hrest
    obtain _ | n := n
    · exact absurd hn (Nat.not_lt_zero _)
    obtain ⟨y, hy, hloop⟩ := Session.enumerateLoop_of_found n hc.found
    have hyenum : Enumerating y.sys := by rw [hy]; exact (hc.enumerating.hostRead .status).hostRead .cand
    have hydevs : y.sys.bus.devs = x.sys.bus.devs := by rw [hy]; exact hc.devs
    have hyrest : ∀ d, d ∈ rest ↔ d ∈ y.sys.bus.devs ∧ y.sys.block.Awaits d := by
      simpa only [hy, System.bus_hostRead, System.awaits_hostRead] using hrest'
    have hmore := ih hyenum (by rwa [hydevs]) hsorted.of_cons hyrest (Nat.lt_of_succ_lt_succ hn)
    rw [hloop, hmore, hc.cand, List.map_cons]

/-- RSTATE begins an enumeration, in which every device is awaited (40_state_commands.md R102, R103). -/
theorem enumerating_rstate {x : System RefBus} (hfault : x.bus.fault = .none) (hidle : x.block.phase = .idle) :
    Enumerating (x.command (encode .rstate)) ∧ ∀ d, (x.command (encode .rstate)).block.Awaits d := by
  have hblock : (x.command (encode .rstate)).block = State.clearSearch { x.block with cmderr := false } :=
    State.feed_command hidle .rstate (decode_encode _)
  refine ⟨⟨hfault, ?_, fun _ hld => ?_⟩, fun d => ?_⟩
  · rw [hblock]; exact hidle
  · rw [hblock] at hld; exact absurd rfl hld
  · rw [hblock]; exact ⟨rfl, .inl rfl⟩

/-- Settles O46: each round of ENUMERATE returns the first of the devices awaited, and the round after the last finds
nothing. -/
theorem enumerateReadsEveryIdentifierOnce : Obligations.EnumerateReadsEveryIdentifierOnce := by
  intro x n hdistinct hfam hfault hidle hn
  have hperm := ascending_perm x.sys.bus.devs
  have hsorted := pairwise_ascending hdistinct
  obtain ⟨hstart, hall⟩ := enumerating_rstate hfault hidle
  have hrest : ∀ d, d ∈ ascending x.sys.bus.devs ↔
      d ∈ x.sys.bus.devs ∧ (x.sys.command (encode .rstate)).block.Awaits d :=
    fun d => hperm.mem_iff.trans (and_iff_left (hall d)).symm
  exact ⟨_, hperm, hsorted, Enumerating.enumerateLoop_eq (x := x.run RefBus.channel (.command .rstate)) hstart hfam
    hsorted hrest (hperm.length_eq ▸ hn)⟩

end Sys2Proof.Machine

namespace Sys2Proof.Machine

/-! # RSTATE and TARGET -/

/-- A command submitted to an idle block has its effect there, the bus untouched (30_encoding.md R86). -/
theorem System.command_of_idle {β : Type} {x : System β} (hidle : x.block.phase = .idle) (i : Instr) :
    x.command (encode i) = { x with block := acceptedEffect i { x.block with cmderr := false } } := by
  rw [System.command, State.feed_command hidle i (decode_encode i)]

/-- An idle block performs a command (30_encoding.md R86). -/
theorem exec_of_idle {s : State} (h : s.busy = false) (i : Instr) :
    exec i s = .next (acceptedEffect i { s with cmderr := false }) := by
  rw [exec_eq_accept, State.accept_of_idle ((State.busy_eq_false_iff s).1 h)]

/-- Settles O12: RSTATE's effect behind the acceptance check that every command shares. -/
theorem rstateClearsSearchState : Obligations.RstateClearsSearchState :=
  ⟨rfl, fun _ => ⟨fun hidle => exec_of_idle hidle .rstate, fun hbusy => exec_of_busy hbusy .rstate⟩⟩

/-- TARGET's word written with a shift, as 30_encoding.md R89 does. -/
theorem encode_target (f : Byte) : encode (.target f) = (f.zeroExtend 16 <<< 8) ||| 0x0002#16 := by
  have hword : encode (.target f) = f ++ (0#4 ++ 2#4) := BitVec.append_assoc
  have hlow : (0#4 ++ 2#4 : Byte) = 2#8 := rfl
  rw [hword, hlow, ← BitVec.setWidth_eq (f ++ 2#8), BitVec.setWidth_append_eq_shiftLeft_setWidth_or]
  rfl

/-- Settles O13: TARGET's effect behind the acceptance check that every command shares. -/
theorem targetSeedsSearchState : Obligations.TargetSeedsSearchState :=
  fun f => ⟨encode_target f, fun _ =>
    ⟨fun hidle => exec_of_idle hidle (.target f), fun hbusy => exec_of_busy hbusy (.target f)⟩⟩

/-- A discrepancy is resolved as 41_search.md R127 chooses. -/
theorem walkDirection_discrepancy (p ld : Nat) (c : Bool) : walkDirection false false p ld c = forkDirection p ld c :=
  rfl

/-- Settles O14: LD = 64 makes positions 1..63 replay the seed and position 64 take 1. -/
theorem targetReplaysTheFamilyCode : Obligations.TargetReplaysTheFamilyCode := by
  intro s t f p hidle hp hp' hexec
  rw [exec_of_idle hidle] at hexec
  obtain rfl := Host.Outcome.next.inj hexec
  have hld : (acceptedEffect (.target f) { s with cmderr := false }).ld.toNat = 64 := rfl
  have hcand : (acceptedEffect (.target f) { s with cmderr := false }).cand = seededIdent f := rfl
  rw [walkDirection_discrepancy, hld, hcand, candBit_seededIdent f p hp hp', forkDirection]
  rcases hp'.lt_or_eq with hlt | rfl
  · simp [hlt, hlt.ne]
  · rfl

/-! # The walk after TARGET -/

/-- Positions 1..8 are the family code (00_scope.md R10, R12). -/
theorem candBit_eq_familyByte (id : Ident) {p : Nat} (hp : 1 ≤ p) (hp' : p ≤ 8) :
    candBit id p = (familyByte id).getLsbD (p - 1) := by
  have hbyte : byteOf p = 0 := by unfold byteOf; omega
  have hbit : bitOf p = p - 1 := by unfold bitOf; omega
  rw [candBit_eq id p (by omega), hbit]
  simp only [hbyte]
  rfl

/-- Identifiers that agree at positions 1..8 are of one family. -/
theorem familyByte_eq_of_agreeBelow {a b : Ident} (h : AgreeBelow a b 9) : familyByte a = familyByte b := by
  apply BitVec.eq_of_getLsbD_eq
  intro j hj
  have hbit := h (j + 1) (by omega) (by omega)
  rw [candBit_eq_familyByte b (by omega) (by omega), candBit_eq_familyByte a (by omega) (by omega)] at hbit
  exact hbit.symm

/-- A walk seeded with the family code of an attached device ends on a device of that family (40_state_commands.md
R109). -/
theorem Walked.familyByte_of_seeded {devs : List Ident} {m c : Ident} {ld fork : Nat}
    (h : Walked devs (seededIdent (familyByte m)) ld 65 c fork) (hm : m ∈ devs) (hld : 8 < ld) :
    familyByte c = familyByte m := by
  suffices hagree : ∀ n ≤ 9, AgreeBelow c m n from familyByte_eq_of_agreeBelow (hagree 9 le_rfl)
  intro n hn
  induction n with
  | zero => exact fun q hq => absurd hq (Nat.not_lt_zero q)
  | succ n ih =>
    intro q hq hq'
    have hseed : forkDirection q ld (candBit (seededIdent (familyByte m)) q) = candBit m q := by
      rw [forkDirection, if_pos (by omega), candBit_eq_familyByte _ hq' (by omega),
        candBit_eq_familyByte m hq' (by omega)]
      rfl
    exact (h.follows hm hq' (by omega) ((ih (by omega)).mono (by omega)) hseed).symm

/-- Settles O49: the walk after TARGET f ends on a device of family f, and M is the only one. -/
theorem targetReturnsTheOneDeviceOfTheFamily : Obligations.TargetReturnsTheOneDeviceOfTheFamily := by
  intro x f m _ hfault hidle hm hfam honly
  subst hfam
  have htarget := System.command_of_idle hidle (.target (familyByte m))
  obtain ⟨c, fork, h⟩ : ∃ c fork, WalkCompletes (x.command (encode (.target (familyByte m))))
      ((x.command (encode (.target (familyByte m)))).search RefBus.channel) c fork := by
    rw [htarget]
    exact search_walkCompletes (List.ne_nil_of_mem hm) hfault hidle rfl
  have hwalked : Walked x.bus.devs (seededIdent (familyByte m)) 64 65 c fork := by
    have hw := h.walked
    rw [htarget] at hw
    exact hw
  obtain rfl : c = m := honly c hwalked.mem (hwalked.familyByte_of_seeded hm (by omega))
  constructor
  · rintro ⟨hfound, -⟩ hzero
    obtain ⟨-, hnot, -⟩ := h.degenerate hzero
    exact Bool.false_ne_true (hnot.symm.trans hfound)
  · intro hne
    obtain ⟨-, hfound, hcand, -, -⟩ := h.found hne
    exact ⟨hfound, hcand⟩

/-- Settles O43: a walk on a stable bus is completed, and it took the path of an attached device. -/
theorem stableWalkEndsOnADevice : Obligations.StableWalkEndsOnADevice := by
  intro x hdevs _ hfault hidle hterminal
  obtain ⟨c, fork, h⟩ := search_walkCompletes hdevs hfault hidle hterminal
  refine ⟨h.phase, h.trace_length, h.devs, ?_⟩
  by_cases hfam : familyByte c = 0x00#8
  · exact .inr ⟨(h.degenerate hfam).1, c, h.walked.mem, hfam⟩
  · obtain ⟨houtcome, -, hcand, -, -⟩ := h.found hfam
    exact .inl ⟨houtcome, hcand ▸ h.walked.mem⟩

end Sys2Proof.Machine

namespace Sys2Proof.Machine

/-! # What the rest of a SEARCH depends on -/

/-- The block without what the rest of its SEARCH cannot depend on: the host's side, and each hidden register where the
phase has it written before it is read again (70_reset_and_hazards.md R203). -/
def State.live (s : State) : State :=
  { s with
    cmderr := false
    lastRead := none
    inputs := []
    cmdIdx := if s.phase = .cmdBit then s.cmdIdx else 0#3
    pos := if s.phase.walking then s.pos else 0#7
    idb := if s.phase = .rdCmp then s.idb else false
    cmpb := false
    dir := if s.phase = .wrDir then s.dir else false
    lastZero := if s.phase = .idle then 0#7 else s.lastZero }

/-- The live part of the block fixes the outstanding transaction (41_search.md R140). -/
theorem State.request_live (s : State) : s.live.request = s.request := by
  cases h : s.phase <;> simp [State.request, State.live, h]

section Live
variable {s : State}

theorem State.live_cmdBitStep (h : s.phase = .cmdBit) : s.cmdBitStep.live = s.live.cmdBitStep.live := by
  have hidx : s.live.cmdIdx = s.cmdIdx := if_pos h
  rw [State.cmdBitStep, State.cmdBitStep, hidx]
  split <;> simp [State.live, State.record, h, Phase.walking]

theorem State.live_rdCmpStep (h : s.phase = .rdCmp) (v : Bool) : (s.rdCmpStep v).live = (s.live.rdCmpStep v).live := by
  have hlive : s.live = { s with
      cmderr := false, lastRead := none, inputs := [], cmdIdx := 0#3, cmpb := false, dir := false } := by
    simp [State.live, h, Phase.walking]
  rw [hlive, State.rdCmpStep, State.rdCmpStep]
  by_cases hanomaly : (s.idb && v) = true
  · rw [if_pos hanomaly, if_pos hanomaly]
    rfl
  · rw [if_neg hanomaly, if_neg hanomaly]
    rfl

/-- The end of a walk reads the candidate, the pending fork and terminal, which are live in it. -/
theorem State.live_completeWalk (h : s.phase ≠ .idle) : s.completeWalk.live = s.live.completeWalk.live := by
  have hcand : s.live.cand = s.cand := rfl
  have hfork : s.live.lastZero = s.lastZero := if_neg h
  rw [State.completeWalk, State.completeWalk, hcand, hfork]
  split <;> rfl

theorem State.live_wrDirStep (h : s.phase = .wrDir) : s.wrDirStep.live = s.live.wrDirStep.live := by
  have hlive : s.live = { s with
      cmderr := false, lastRead := none, inputs := [], cmdIdx := 0#3, idb := false, cmpb := false } := by
    simp [State.live, h, Phase.walking]
  have hpos : s.live.pos = s.pos := by rw [hlive]
  have hstore : s.storeDir.live = s.live.storeDir.live := by simp [State.live, h, Phase.walking]
  have hbusy : s.storeDir.phase ≠ .idle := by simp [h]
  have hbusy' : s.live.storeDir.phase ≠ .idle := hbusy
  rw [State.wrDirStep, State.wrDirStep, hpos]
  split
  · rw [hlive]; rfl
  · rw [State.live_completeWalk hbusy, hstore, ← State.live_completeWalk hbusy']

/-- One step of the search machine acts on the live part of the block alone. -/
theorem State.live_engineStep (s : State) (v : Bool) : (s.engineStep v).live = (s.live.engineStep v).live := by
  have hphase : s.live.phase = s.phase := rfl
  cases h : s.phase with
  | idle =>
    rw [State.engineStep_idle h, State.engineStep_idle (hphase.trans h)]
    simp [State.live, h, Phase.walking]
  | busRst =>
    rw [State.engineStep_busRst h, State.engineStep_busRst (hphase.trans h)]
    cases v <;> simp [State.busRstStep, State.live, State.record, h, Phase.walking]
  | cmdBit => rw [State.engineStep_cmdBit h, State.engineStep_cmdBit (hphase.trans h), State.live_cmdBitStep h]
  | rdId =>
    rw [State.engineStep_rdId h, State.engineStep_rdId (hphase.trans h)]
    simp [State.rdIdStep, State.live, State.record, h, Phase.walking]
  | rdCmp => rw [State.engineStep_rdCmp h, State.engineStep_rdCmp (hphase.trans h), State.live_rdCmpStep h]
  | wrDir => rw [State.engineStep_wrDir h, State.engineStep_wrDir (hphase.trans h), State.live_wrDirStep h]

/-- Blocks that agree on what is live still do after a completion. -/
theorem State.live_engineStep_congr {t : State} (h : s.live = t.live) (v : Bool) :
    (s.engineStep v).live = (t.engineStep v).live := by
  rw [s.live_engineStep, t.live_engineStep, h]

/-- They ask for the same transaction. -/
theorem State.request_congr {t : State} (h : s.live = t.live) : s.request = t.request := by
  rw [← s.request_live, ← t.request_live, h]

end Live

/-- Two systems whose SEARCHes can only go the same way: the same bus, and blocks with the same live part. -/
structure Alike {β : Type} (x y : System β) : Prop where
  bus : x.bus = y.bus
  live : x.block.live = y.block.live

section Alike
variable {β : Type} {ch : BitChannel β} {x y : System β}

/-- Blocks with the same live part ask for the same transaction; if both buses complete it with the same answer and are
equal after it, the systems are alike. -/
theorem alike_transact_of_answer {r : BusRequest} {bus' : β} {v : Bool} (hlive : x.block.live = y.block.live)
    (hr : x.block.request = some r) (hx : ch.answer x.bus r = some (bus', v))
    (hy : ch.answer y.bus r = some (bus', v)) : Alike (x.transact ch) (y.transact ch) := by
  have hr' : y.block.request = some r := (State.request_congr hlive).symm.trans hr
  rw [System.transact_of_answer hr hx, System.transact_of_answer hr' hy]
  exact ⟨rfl, State.live_engineStep_congr hlive v⟩

/-- A transaction that the bus never completes leaves the system waiting (20_memory.md R65). -/
theorem System.transact_of_stall {r : BusRequest} (hr : x.block.request = some r) (ha : ch.answer x.bus r = none) :
    x.transact ch = x := by
  simp [System.transact, hr, ha]

theorem System.transact_of_no_request (hr : x.block.request = none) : x.transact ch = x := by
  simp [System.transact, hr]

/-- A transaction keeps systems alike. -/
theorem Alike.transact (h : Alike x y) : Alike (x.transact ch) (y.transact ch) := by
  have hreq : y.block.request = x.block.request := (State.request_congr h.live).symm
  cases hr : x.block.request with
  | none => rwa [System.transact_of_no_request hr, System.transact_of_no_request (hreq.trans hr)]
  | some r =>
    cases ha : ch.answer x.bus r with
    | none => rwa [System.transact_of_stall hr ha, System.transact_of_stall (hreq.trans hr) (h.bus ▸ ha)]
    | some p => exact alike_transact_of_answer h.live hr ha (h.bus ▸ ha)

theorem Alike.wait (h : Alike x y) (n : Nat) : Alike (x.wait ch n) (y.wait ch n) := by
  induction n generalizing x y with
  | zero => exact h
  | succ n ih =>
    rw [System.wait_succ, System.wait_succ]
    exact ih h.transact

end Alike

/-- RSTATE and the acceptance of SEARCH leave nothing live of what the block held (40_state_commands.md R103, R105). -/
theorem rstate_search_starts {β : Type} {x : System β} (hidle : x.block.phase = .idle) :
    ((x.command (encode .rstate)).command (encode .search)).bus = x.bus ∧
      ((x.command (encode .rstate)).command (encode .search)).block.live =
        { State.reset with phase := .busRst } := by
  rw [System.command_of_idle hidle]
  obtain ⟨hbus, hblock⟩ := System.command_search_starts
    { x with block := acceptedEffect .rstate { x.block with cmderr := false } } hidle rfl
  rw [hbus, hblock]
  exact ⟨rfl, rfl⟩

/-- Settles O48: the accepted SEARCHes are alike in all that is live, the bus reset makes the buses equal, and from
there the two systems stay alike. -/
theorem rstateThenSearchIsIdempotent : Obligations.RstateThenSearchIsIdempotent := by
  intro x y hdevs hfx hfy hx hy
  obtain ⟨hbusx, hlivex⟩ := rstate_search_starts hx
  obtain ⟨hbusy, hlivey⟩ := rstate_search_starts hy
  have hrequest : ((x.command (encode .rstate)).command (encode .search)).block.request = some .reset := by
    rw [← State.request_live, hlivex]; rfl
  have hreset : y.bus.onReset = x.bus.onReset := by simp [RefBus.onReset, hdevs, hfx, hfy]
  have hfirst := alike_transact_of_answer (ch := RefBus.channel) (bus' := x.bus.onReset.1) (v := x.bus.onReset.2)
    (hlivex.trans hlivey.symm) hrequest (by rw [hbusx]; rfl) (by rw [hbusy, ← hreset]; rfl)
  have h : ((x.command (encode .rstate)).search RefBus.channel).block.live =
      ((y.command (encode .rstate)).search RefBus.channel).block.live := by
    rw [System.search, System.search, System.wait_succ _ 200, System.wait_succ _ 200]
    exact (hfirst.wait 200).live
  rw [State.live, State.live, State.mk.injEq] at h
  obtain ⟨hcand, hld, hlfd, hterminal, hfound, -, -, -, -, -, -, -, -, houtcome, htrace, -⟩ := h
  exact ⟨hfound, hcand, hld, hlfd, hterminal, houtcome, htrace⟩

end Sys2Proof.Machine

namespace Sys2Proof.Machine

/-! # SEARCH, phase by phase -/

/-- Settles O15: an idle block accepts SEARCH, and the accepting step has two cases. -/
theorem searchAcceptance : Obligations.SearchAcceptance := by
  refine fun s hidle => ⟨fun hterminal => ?_, fun hterminal => ⟨_, exec_of_idle hidle .search, ?_⟩⟩
  · have hphase := (State.busy_eq_false_iff s).1 hidle
    simp [exec_of_idle hidle, acceptedEffect, State.startSearch, hterminal, State.finish, hphase]
  · rw [acceptedEffect, State.startSearch, if_neg (by simp [hterminal])]
    exact ⟨rfl, rfl⟩

/-- A completion that reaches the block is one Engine step. -/
theorem step_completion {s t : State} {v : Bool} (h : s.engineStep v = t) :
    step (s.facing (.busCompletion v)) = .next t :=
  congrArg Host.Outcome.next h

/-- Settles O16: the two answers to the bus reset. -/
theorem busResetPhase : Obligations.BusResetPhase :=
  fun _ hp => ⟨step_completion (State.engineStep_busRst hp false), step_completion (State.engineStep_busRst hp true)⟩

/-- The bits of 0xF0 in bus order are four zeros, then four ones (20_memory.md R57). -/
theorem searchCmdBit_eq (i : BitVec 3) : searchCmdBit i = decide (4 ≤ i.toNat) := by
  revert i; decide

/-- Settles O17: before the last bit of the command byte, and at it. -/
theorem commandBitPhase : Obligations.CommandBitPhase := by
  intro s v hp
  apply step_completion
  rw [State.engineStep_cmdBit hp, State.cmdBitStep, searchCmdBit_eq]
  by_cases hi : s.cmdIdx.toNat < 7
  · rw [if_pos hi, if_pos (show s.cmdIdx < 7#3 from hi)]; rfl
  · rw [if_neg hi, if_neg (show ¬s.cmdIdx < 7#3 from hi)]; rfl

/-- Settles O18: the bit read is stored and the complement's read comes next. -/
theorem readIdentifierBitPhase : Obligations.ReadIdentifierBitPhase :=
  fun _ v hp => step_completion (State.engineStep_rdId hp v)

/-- Settles O20: below position 64 the store is followed by the next position. -/
theorem writeDirectionPhase : Obligations.WriteDirectionPhase := by
  intro s v hp hpos
  apply step_completion
  rw [State.engineStep_wrDir hp, State.wrDirStep, if_pos (show s.pos < 64#7 from hpos)]
  rfl

/-- Settles O21: the store at position 64 completes the walk. -/
theorem walkCompletion : Obligations.WalkCompletion := by
  intro s v hp hpos hterminal
  have hstep : s.engineStep v = s.storeDir.completeWalk := by
    rw [State.engineStep_wrDir hp, State.wrDirStep, if_neg (by simp [BitVec.lt_def, hpos])]
  have hcand : s.storeDir.cand = setCandBit s.cand 64 s.dir := by rw [State.storeDir_cand, hpos]
  have hbyte : familyByte s.storeDir.cand = (setCandBit s.cand 64 s.dir)[0] := by rw [hcand]; rfl
  have hor : (s.storeDir.terminal || s.storeDir.lastZero == 0#7) = (s.lastZero == 0#7) := by simp [hterminal]
  rcases s.storeDir.completeWalk_cases with ⟨hfam, hc⟩ | ⟨hfam, hc⟩ <;> rw [hbyte] at hfam
  · refine ⟨fun _ => step_completion ?_, fun hne => absurd hfam hne⟩
    rw [hstep, hc]
    rfl
  · refine ⟨fun hzero => absurd hzero hfam, fun _ => step_completion ?_⟩
    rw [hstep, hc, hor, hcand]
    rfl

/-! # The resolution of a bit pair -/

section Resolution
variable {s : State}

/-- The direction at a discrepancy is 1 for a replayed 1 and at LD (41_search.md R136). -/
theorem forkDirection_eq_true_iff (p ld : Nat) (c : Bool) :
    forkDirection p ld c = true ↔ (p < ld ∧ c = true) ∨ p = ld := by
  rw [← Bool.not_eq_false, forkDirection_eq_false_iff]
  cases c <;> simp
  omega

theorem State.directionHere_of_agreed (h : s.idb ≠ s.cmpb) : s.directionHere = s.idb := if_pos h

theorem State.directionHere_of_discrepancy (h : s.idb = s.cmpb) :
    s.directionHere = forkDirection s.pos.toNat s.ld.toNat (candBit s.cand s.pos.toNat) :=
  if_neg (not_not_intro h)

/-- A pair with no pending fork has its direction stored and nothing recorded (41_search.md R126, R127). -/
theorem State.resolvePair_of_not_pending (h : s.pendingForkHere = false) :
    s.resolvePair = { s with dir := s.directionHere, phase := .wrDir } := by
  simp [State.resolvePair, h]

/-- Where the pair agrees on a bit, that bit is the direction (41_search.md R126). -/
theorem State.resolvePair_of_agreed (h : s.idb ≠ s.cmpb) :
    s.resolvePair = { s with dir := s.idb, phase := .wrDir } := by
  have hpending : s.pendingForkHere = false := by
    rw [← Bool.not_eq_true, State.pendingForkHere, isPendingFork_eq_true_iff]
    rintro ⟨hidb, hcmpb, -⟩
    exact h (hidb.trans hcmpb.symm)
  rw [State.resolvePair_of_not_pending hpending, State.directionHere_of_agreed h]

/-- A direction 1 leaves no pending fork (41_search.md R128). -/
theorem State.resolvePair_of_one (h : s.directionHere = true) :
    s.resolvePair = { s with dir := true, phase := .wrDir } := by
  have hpending : s.pendingForkHere = false := by
    rw [← Bool.not_eq_true, State.pendingForkHere, isPendingFork_eq_true_iff, h]
    rintro ⟨-, -, hdir⟩
    exact Bool.noConfusion hdir
  rw [State.resolvePair_of_not_pending hpending, h]

/-- A discrepancy resolved to 0 is recorded, in LFD too when it lies in the first byte (41_search.md R128, R129). -/
theorem State.resolvePair_of_pending (hidb : s.idb = false) (hcmpb : s.cmpb = false) (h : s.directionHere = false) :
    s.resolvePair = { s with
      dir := false, lastZero := s.pos
      lfd := if s.pos.toNat ≤ 8 then BitVec.ofNat 4 s.pos.toNat else s.lfd
      phase := .wrDir } := by
  have hpending : s.pendingForkHere = true := (isPendingFork_eq_true_iff _ _ _).2 ⟨hidb, hcmpb, h⟩
  simp [State.resolvePair, hpending, h, BitVec.le_def]

end Resolution

/-- The read of the complement bit resolves a pair that is not (1,1) (41_search.md R144). -/
theorem State.engineStep_resolves {s : State} {v : Bool} (hp : s.phase = .rdCmp) (hpair : ¬(s.idb = true ∧ v = true)) :
    s.engineStep v = ({ s.record (.read v) with cmpb := v } : State).resolvePair := by
  rw [State.engineStep_rdCmp hp, State.rdCmpStep, if_neg (by simpa using hpair)]

/-- Settles O19: the pair (1,1) fails, an agreed bit is taken, and a discrepancy is resolved by position, LD and the
candidate's bit. -/
theorem resolutionTable : Obligations.ResolutionTable := by
  intro s v hp _ _
  refine ⟨fun hidb hv => step_completion ?_, fun hidb hv => step_completion ?_, fun hidb hv => step_completion ?_,
    fun hidb hv hrow => step_completion ?_, fun hidb hv hrow => step_completion ?_⟩
  · rw [State.engineStep_rdCmp hp, State.rdCmpStep, if_pos (by simp [hidb, hv]), hv]
    rfl
  · rw [State.engineStep_resolves hp (by simp [hidb]), State.resolvePair_of_agreed (by simp [hidb, hv])]
    simp [State.record, hidb]
  · rw [State.engineStep_resolves hp (by simp [hv]), State.resolvePair_of_agreed (by simp [hidb, hv])]
    simp [State.record, hidb]
  · refine (State.engineStep_resolves hp (by simp [hidb])).trans (State.resolvePair_of_pending hidb hv ?_)
    refine (State.directionHere_of_discrepancy ?_).trans ((forkDirection_eq_false_iff _ _ _).2 hrow)
    exact hidb.trans hv.symm
  · refine (State.engineStep_resolves hp (by simp [hidb])).trans (State.resolvePair_of_one ?_)
    refine (State.directionHere_of_discrepancy ?_).trans ((forkDirection_eq_true_iff _ _ _).2 hrow)
    exact hidb.trans hv.symm

/-! # How a SEARCH ends -/

section Ends
variable {s t : State} {v : Bool}

/-- A busy block that is idle after a completion has ended its SEARCH. -/
theorem State.engineStep_ends (hb : s.busy = true) (hb' : (s.engineStep v).busy = false) :
    SearchEnds s v (s.engineStep v) := by
  rcases s.engineStep_goesOn_or_ends v ((State.busy_eq_true_iff s).1 hb) with h | h
  · exact absurd ((State.busy_eq_false_iff _).1 hb') h.phase_ne_idle
  · exact h

/-- SEARCH accepted with terminal = 1 (41_search.md R121). -/
theorem exec_search_exhausted (hidle : s.busy = false) (hterminal : s.terminal = true) :
    exec .search s = .next { s with found := false, cmderr := false, outcome := some .exhausted, trace := [] } :=
  (searchAcceptance s hidle).1 hterminal

/-- The walk of a block that meets the invariant ends at position 64 (10_state.md R36). -/
theorem State.Inv.pos_eq_last (hs : s.Inv) (hp : s.phase = .wrDir) (hpos : 64 ≤ s.pos.toNat) : s.pos.toNat = 64 :=
  le_antisymm (hs.pos_range (by rw [hp]; rfl)).2 hpos

/-- Settles O24: Exhausted in the accepting step, and otherwise one of the four ways a completion ends a SEARCH. -/
theorem searchEndsWithOneOutcome : Obligations.SearchEndsWithOneOutcome := by
  refine ⟨fun s hidle hterminal => ?_, fun s t v hs hb hstep hidle => ?_⟩
  · exact ⟨_, exec_search_exhausted hidle hterminal, hidle, rfl, rfl, rfl, rfl, hterminal, rfl⟩
  · rw [step_facing_busCompletion] at hstep
    cases hstep
    have hend := State.engineStep_ends hb hidle
    generalize s.engineStep v = t at hend
    cases hend with
    | noPresence hp hv => exact .inl ⟨rfl, hp, hv, ⟨rfl, rfl, rfl, rfl⟩, rfl⟩
    | anomaly hp hidb hv => exact .inr (.inl ⟨rfl, hp, hidb, hv, ⟨rfl, rfl, rfl, rfl⟩, rfl⟩)
    | degenerate hp hpos hfam =>
      have hlast := hs.pos_eq_last hp hpos
      rw [State.storeDir_cand, hlast] at hfam
      exact .inr (.inr (.inl ⟨rfl, hp, hlast, hfam, ⟨rfl, rfl, rfl, rfl⟩, rfl⟩))
    | found hp hpos hfam =>
      have hlast := hs.pos_eq_last hp hpos
      have hcand : s.storeDir.cand = setCandBit s.cand 64 s.dir := by rw [State.storeDir_cand, hlast]
      refine .inr (.inr (.inr ⟨rfl, hp, hlast, hfam, hcand, rfl, rfl, ?_, rfl⟩))
      simp [hs.busy_terminal hb]

/-- The n-th transaction of a SEARCH has the kind the fixed order gives it (41_search.md R137). -/
theorem State.Inv.kind_eq_expected (hs : s.Inv) {n : Nat} {x : Transaction} (hx : s.trace.reverse[n]? = some x) :
    x.kind = expectedKind n := by
  have hlt : n < s.trace.length := by simpa using (List.getElem?_eq_some_iff.1 hx).1
  have hkind : (s.trace.reverse.map Transaction.kind)[n]? = some x.kind := by rw [List.getElem?_map, hx]; rfl
  rw [hs.trace_kinds, List.getElem?_map, List.getElem?_range hlt] at hkind
  exact (Option.some.inj hkind).symm

/-- Settles O25: the invariant counts the transactions before the last completion and holds their order. -/
theorem transactionCounts : Obligations.TransactionCounts := by
  refine ⟨fun s hidle hterminal => ⟨_, exec_search_exhausted hidle hterminal, rfl, rfl⟩,
    fun s t v hs hb hstep hidle => ?_⟩
  rw [step_facing_busCompletion] at hstep
  cases hstep
  have hend := State.engineStep_ends hb hidle
  have hkinds : ∀ n x, (s.engineStep v).trace.reverse[n]? = some x → x.kind = expectedKind n :=
    fun n x hx => (hs.engineStep v).kind_eq_expected hx
  have hlen := hs.trace_length
  generalize s.engineStep v = t at hend hkinds
  refine ⟨fun houtcome => ?_, fun houtcome => ?_, fun houtcome => ?_, hkinds⟩
  · cases hend with
    | noPresence hp => simp [hlen, State.completedTransactions, hp]
    | anomaly | degenerate | found => cases houtcome
  · cases hend with
    | anomaly hp =>
      obtain ⟨hpos, hpos'⟩ := hs.pos_range (by rw [hp]; rfl)
      refine ⟨?_, hpos, hpos'⟩
      simp [hlen, State.completedTransactions, hp]
      omega
    | noPresence | degenerate | found => cases houtcome
  · cases hend with
    | degenerate hp hpos | found hp hpos => simp [hlen, State.completedTransactions, hp, hs.pos_eq_last hp hpos]
    | noPresence | anomaly => simp at houtcome

end Ends

/-! # An idle block -/

/-- An accepted command keeps the trace or empties it (41_search.md R121). -/
theorem acceptedEffect_trace (i : Instr) (s : State) :
    (acceptedEffect i s).trace = s.trace ∨ (acceptedEffect i s).trace = [] := by
  cases i with
  | rstate => exact .inl rfl
  | target f => exact .inl rfl
  | search => rcases s.startSearch_cases with ⟨-, h⟩ | ⟨-, h⟩ <;> exact .inr (by rw [acceptedEffect, h])

/-- Settles O29: of the inputs that reach an idle block, only a CMD write and a power-on reset have an effect. -/
theorem idleBlockNeverTouchesTheBus : Obligations.IdleBlockNeverTouchesTheBus := by
  intro s t hidle hstep
  cases hinputs : s.inputs with
  | nil =>
    rw [step_of_no_input hinputs] at hstep
    cases hstep
    refine ⟨.inl rfl, fun _ _ => ?_⟩
    rw [List.tail_nil, ← hinputs]
  | cons i rest =>
    rw [step_of_input hinputs] at hstep
    have hidle' : ({ s with inputs := rest } : State).phase = .idle := hidle
    rcases deliver_cases i { s with inputs := rest } with
      ⟨value, rfl, hd⟩ | ⟨-, hd⟩ | ⟨idx, rfl, hd⟩ | ⟨v, rfl, hd⟩ | ⟨rfl, hd⟩ <;> rw [hd] at hstep
    · refine ⟨?_, fun hcmd _ => absurd rfl (hcmd value rest)⟩
      rcases submit_cases (commandWordOf value) { s with inputs := rest } with ⟨c, -, -, hs⟩ | ⟨-, hs⟩ <;>
        rw [hs] at hstep <;> cases hstep
      · exact acceptedEffect_trace c _
      · exact .inl rfl
    · cases hstep
      exact ⟨.inl rfl, fun _ _ => rfl⟩
    · cases hstep
      exact ⟨.inl rfl, fun _ _ => rfl⟩
    · rw [State.engineStep_idle hidle'] at hstep
      cases hstep
      exact ⟨.inl rfl, fun _ _ => rfl⟩
    · cases hstep
      exact ⟨.inr rfl, fun _ hpower => absurd rfl (hpower rest)⟩

end Sys2Proof.Machine

namespace Sys2Proof.Machine

/-! # The search machine and the reference operation -/

/-- Served the answers one by one, the search machine of `t` comes to where the reference operation stands: to its end,
with the same answers unused, or to the wait for the next transaction (41_search.md R146). -/
inductive Agrees : State → List Bool → WalkResult → Prop
  | finished {t : State} {o : SearchOutcome} (answers : List Bool) (hp : t.phase = .idle) (ho : t.outcome = some o) :
      Agrees t answers (.finished o t.walkRegs answers)
  | stalled {t : State} (hp : t.phase ≠ .idle) : Agrees t [] (.stalled t.walkRegs)
  | completion {t : State} {v : Bool} {answers : List Bool} {w : WalkResult} (hp : t.phase ≠ .idle)
      (h : Agrees (t.engineStep v) answers w) : Agrees t (v :: answers) w

section Reference
variable {t : State} {n : Nat}

/-- The end of a walk is the reference operation's (41_search.md R133, R134). -/
theorem completeWalk_agrees (t : State) (answers : List Bool) :
    Agrees t.completeWalk answers (refComplete t.walkRegs answers) := by
  have hterminal : (if t.walkRegs.lastZero = 0#7 then true else t.walkRegs.terminal) =
      (t.terminal || t.lastZero == 0#7) := by
    by_cases h : t.lastZero = 0#7 <;> simp [State.walkRegs, h]
  rw [refComplete, hterminal]
  rcases t.completeWalk_cases with ⟨hfam, hc⟩ | ⟨hfam, hc⟩ <;> rw [hc]
  · rw [if_pos (show familyByte t.walkRegs.cand = 0x00#8 from hfam)]
    exact .finished answers rfl rfl
  · rw [if_neg (show familyByte t.walkRegs.cand ≠ 0x00#8 from hfam)]
    exact .finished answers rfl rfl

/-- A pair that is not (1,1) is resolved as the reference operation resolves it (41_search.md R126 to R129). -/
theorem refResolve_eq (hpair : ¬(t.idb = true ∧ t.cmpb = true)) :
    refResolve t.pos.toNat t.idb t.cmpb t.walkRegs = (t.resolvePair.dir, t.resolvePair.walkRegs) := by
  rw [refResolve]
  by_cases hne : t.idb ≠ t.cmpb
  · rw [if_pos hne, State.resolvePair_of_agreed hne]
    rfl
  have heq : t.idb = t.cmpb := not_not.1 hne
  have hcmpb : t.cmpb = false := Bool.eq_false_iff.2 fun h => hpair ⟨heq.trans h, h⟩
  have hdir := State.directionHere_of_discrepancy heq
  rw [if_neg hne]
  cases hone : t.directionHere with
  | true =>
    have hrow := (forkDirection_eq_true_iff _ _ _).1 (hdir.symm.trans hone)
    rw [State.resolvePair_of_one hone]
    exact if_pos hrow
  | false =>
    have hrow := mt (forkDirection_eq_true_iff _ _ _).2 (by rw [← hdir, hone]; exact Bool.false_ne_true)
    rw [State.resolvePair_of_pending (heq.trans hcmpb) hcmpb hone]
    refine (if_neg hrow).trans ?_
    simp [State.walkRegs]

section Loop
variable {r r' : WalkRegs} {idb cmpb dir : Bool}

/-- A round of the loop whose pair is (1,1) aborts the walk (41_search.md R125). -/
theorem refWalk_anomaly (r : WalkRegs) (rest : List Bool) : refWalk (n + 1) r (true :: true :: rest) =
    ((r.perform (.read true)).perform (.read true)).fail .busContentionAnomaly rest := rfl

/-- A round of the loop waits for its write when the pair is resolved (41_search.md R130). -/
theorem refWalk_waits (hpair : ¬(idb = true ∧ cmpb = true))
    (href : refResolve (64 - n) idb cmpb ((r.perform (.read idb)).perform (.read cmpb)) = (dir, r')) :
    refWalk (n + 1) r [idb, cmpb] = .stalled r' := by
  simp only [refWalk, if_neg hpair, href]

/-- A whole round of the loop (41_search.md R124 to R132). -/
theorem refWalk_round (hpair : ¬(idb = true ∧ cmpb = true))
    (href : refResolve (64 - n) idb cmpb ((r.perform (.read idb)).perform (.read cmpb)) = (dir, r')) (v : Bool)
    (rest : List Bool) : refWalk (n + 1) r (idb :: cmpb :: v :: rest) =
      refWalk n { r'.perform (.write dir) with cand := setCandBit r'.cand (64 - n) dir } rest := by
  simp only [refWalk, if_neg hpair, href]

end Loop

/-- The block when both bits of a pair have been read (41_search.md R143, R144). -/
def State.withPair (t : State) (idb cmpb : Bool) : State :=
  { t with idb := idb, cmpb := cmpb, phase := .rdCmp, trace := .read cmpb :: .read idb :: t.trace }

/-- One position of the walk agrees with one round of the reference operation's loop when the rest of the walk does
(41_search.md R124 to R132). -/
theorem position_agrees (hp : t.phase = .rdId) (hpos : t.pos.toNat = 64 - n)
    (hrest : ∀ idb cmpb answers, Agrees (t.withPair idb cmpb).resolvePair.wrDirStep answers
      (refWalk n (t.withPair idb cmpb).resolvePair.storeDir.walkRegs answers)) (answers : List Bool) :
    Agrees t answers (refWalk (n + 1) t.walkRegs answers) := by
  have hbusy : t.phase ≠ .idle := by simp [hp]
  obtain _ | ⟨idb, _ | ⟨cmpb, rest⟩⟩ := answers
  · exact .stalled hbusy
  · refine .completion hbusy ?_
    rw [State.engineStep_rdId hp]
    exact .stalled nofun
  refine .completion hbusy ?_
  rw [State.engineStep_rdId hp]
  refine .completion nofun ?_
  by_cases hpair : idb = true ∧ cmpb = true
  · obtain ⟨rfl, rfl⟩ := hpair
    rw [refWalk_anomaly, State.engineStep_rdCmp rfl]
    exact .finished rest rfl rfl
  have hresolved : (State.rdIdStep idb t).engineStep cmpb = (t.withPair idb cmpb).resolvePair :=
    State.engineStep_resolves rfl hpair
  have href := refResolve_eq (t := t.withPair idb cmpb) hpair
  rw [show (t.withPair idb cmpb).pos.toNat = 64 - n from hpos] at href
  rw [hresolved]
  obtain _ | ⟨v, rest⟩ := rest
  · rw [refWalk_waits hpair href]
    exact .stalled nofun
  · rw [refWalk_round hpair href, ← hpos]
    refine .completion nofun ?_
    rw [State.engineStep_wrDir rfl]
    exact hrest idb cmpb rest

/-- From any position on, the walk agrees with the reference operation's loop (41_search.md R124 to R134). -/
theorem walk_agrees (hp : t.phase = .rdId) (hpos : t.pos.toNat + n = 64) (answers : List Bool) :
    Agrees t answers (refWalk (n + 1) t.walkRegs answers) := by
  induction n generalizing t answers with
  | zero =>
    refine position_agrees hp hpos (fun idb cmpb rest => ?_) answers
    have hlast : ¬(t.withPair idb cmpb).resolvePair.pos < 64#7 := by
      simpa [BitVec.lt_def, State.withPair] using hpos.ge
    rw [State.wrDirStep, if_neg hlast]
    exact completeWalk_agrees _ rest
  | succ n ih =>
    refine position_agrees hp (by omega) (fun idb cmpb rest => ?_) answers
    have hbefore : (t.withPair idb cmpb).resolvePair.pos < 64#7 := by
      simp [BitVec.lt_def, State.withPair]; omega
    rw [State.wrDirStep, if_pos hbefore]
    exact ih rfl (by simp [State.withPair]; omega) rest

/-- The bits still to send are the next one and those after it (20_memory.md R57). -/
theorem drop_bitsOf_searchCmd (i : BitVec 3) :
    (bitsOf Config.searchCmd).drop i.toNat = searchCmdBit i :: (bitsOf Config.searchCmd).drop (i.toNat + 1) := by
  revert i; decide

/-- From any bit of the command byte on, the machine agrees with the reference operation (41_search.md R123). -/
theorem commandBits_agree (hp : t.phase = .cmdBit) {bits : List Bool}
    (hbits : (bitsOf Config.searchCmd).drop t.cmdIdx.toNat = bits) (answers : List Bool) :
    Agrees t answers (refWrite bits t.walkRegs answers) := by
  have hbusy : t.phase ≠ .idle := by simp [hp]
  induction bits generalizing t answers with
  | nil => rw [drop_bitsOf_searchCmd] at hbits; cases hbits
  | cons b bits ih =>
    rw [drop_bitsOf_searchCmd, List.cons.injEq] at hbits
    obtain ⟨rfl, hbits⟩ := hbits
    obtain _ | ⟨v, rest⟩ := answers
    · exact .stalled hbusy
    refine .completion hbusy ?_
    rw [State.engineStep_cmdBit hp, State.cmdBitStep, refWrite]
    by_cases hi : t.cmdIdx < 7#3
    · have hi' : t.cmdIdx.toNat < 7 := hi
      rw [if_pos hi]
      refine ih ?_ ?_ rest hbusy
      · exact hp
      rw [← hbits, BitVec.toNat_add_of_lt (by simp; omega)]
      rfl
    · have hi' : t.cmdIdx.toNat = 7 := by
        have := t.cmdIdx.isLt
        rw [BitVec.lt_def] at hi
        simp at hi
        omega
      rw [if_neg hi, ← hbits, hi']
      exact walk_agrees (n := 63) rfl rfl rest

/-- An accepted SEARCH agrees with the reference operation (41_search.md R120, R146). -/
theorem startSearch_agrees (s : State) (answers : List Bool) :
    Agrees s.startSearch answers (refSearch s.walkRegs answers) := by
  rcases s.startSearch_cases with ⟨hterminal, hs⟩ | ⟨hterminal, hs⟩ <;> rw [hs] <;> unfold refSearch
  · rw [if_pos (show s.walkRegs.terminal = true from hterminal)]
    exact .finished answers rfl rfl
  rw [if_neg (show ¬s.walkRegs.terminal = true by simp [State.walkRegs, hterminal])]
  obtain _ | ⟨presence, rest⟩ := answers
  · exact .stalled nofun
  refine .completion nofun ?_
  rw [State.engineStep_busRst rfl, State.busRstStep]
  cases presence
  · exact .finished rest rfl rfl
  · exact commandBits_agree rfl rfl rest

end Reference

/-! # Runs on a list of answers -/

/-- The block with other inputs pending. -/
def State.withInputs (t : State) (inputs : List Input) : State := { t with inputs := inputs }

/-- The block with the completions that carry the answers next, before other inputs. -/
abbrev State.awaiting (t : State) (answers : List Bool) (pending : List Input) : State :=
  t.withInputs (answers.map .busCompletion ++ pending)

section Pending
variable (t : State) (v : Bool) (inputs : List Input)

theorem State.completeWalk_withInputs : (t.withInputs inputs).completeWalk = t.completeWalk.withInputs inputs := by
  unfold State.completeWalk
  rw [apply_ite (State.withInputs · inputs)]
  rfl

theorem State.wrDirStep_withInputs : (t.withInputs inputs).wrDirStep = t.wrDirStep.withInputs inputs := by
  rw [State.wrDirStep, State.wrDirStep, apply_ite (State.withInputs · inputs), ← State.completeWalk_withInputs]
  rfl

/-- The search machine does not look at what is pending (41_search.md R140). -/
theorem State.engineStep_withInputs : (t.withInputs inputs).engineStep v = (t.engineStep v).withInputs inputs := by
  have hphase : (t.withInputs inputs).phase = t.phase := rfl
  cases hp : t.phase with
  | idle => rw [State.engineStep_idle hp, State.engineStep_idle (hphase.trans hp)]
  | busRst =>
    rw [State.engineStep_busRst hp, State.engineStep_busRst (hphase.trans hp)]
    cases v <;> rfl
  | cmdBit =>
    rw [State.engineStep_cmdBit hp, State.engineStep_cmdBit (hphase.trans hp)]
    unfold State.cmdBitStep
    rw [apply_ite (State.withInputs · inputs)]
    rfl
  | rdId =>
    rw [State.engineStep_rdId hp, State.engineStep_rdId (hphase.trans hp)]
    rfl
  | rdCmp =>
    rw [State.engineStep_rdCmp hp, State.engineStep_rdCmp (hphase.trans hp)]
    unfold State.rdCmpStep
    rw [apply_ite (State.withInputs · inputs)]
    rfl
  | wrDir =>
    rw [State.engineStep_wrDir hp, State.engineStep_wrDir (hphase.trans hp), State.wrDirStep_withInputs]

end Pending

/-- The first answer is one Engine step. -/
theorem run_awaiting_cons (t : State) (v : Bool) (answers : List Bool) (pending : List Input) (n : Nat) :
    run (n + 1) (t.awaiting (v :: answers) pending) = run n ((t.engineStep v).awaiting answers pending) := by
  have hstep : step (t.awaiting (v :: answers) pending) = .next ((t.engineStep v).awaiting answers pending) :=
    congrArg Host.Outcome.next (State.engineStep_withInputs t v _)
  simp only [run, hstep]

/-- The answers that a result of the reference operation leaves unused. -/
def WalkResult.unused : WalkResult → List Bool
  | .finished _ _ unused => unused
  | .stalled _ => []

/-- The block stands where the reference operation ended or waits. -/
def WalkResult.IsLeftIn (w : WalkResult) (u : State) : Prop :=
  match w with
  | .finished o r _ => u.phase = .idle ∧ u.walkRegs = r ∧ u.outcome = some o
  | .stalled r => u.busy = true ∧ u.walkRegs = r

/-- A machine that agrees with the reference operation is run to where that stands, busy all the way. -/
theorem Agrees.run_awaiting {t : State} {answers : List Bool} {w : WalkResult} (h : Agrees t answers w)
    (pending : List Input) :
    ∃ used u, answers = used ++ w.unused ∧ run used.length (t.awaiting answers pending) = .next u ∧
      w.IsLeftIn u ∧ u.cmderr = t.cmderr ∧ u.inputs = w.unused.map .busCompletion ++ pending ∧
      ∀ k < used.length, ∃ u', run k (t.awaiting answers pending) = .next u' ∧ u'.busy = true := by
  induction h with
  | finished answers hp ho => exact ⟨[], _, rfl, rfl, ⟨hp, rfl, ho⟩, rfl, rfl, nofun⟩
  | stalled hp => exact ⟨[], _, rfl, rfl, ⟨(State.busy_eq_true_iff _).2 hp, rfl⟩, rfl, rfl, nofun⟩
  | @completion t v answers w hp h ih =>
    obtain ⟨used, u, hsplit, hrun, hleft, hcmderr, hinputs, hbusy⟩ := ih
    refine ⟨v :: used, u, congrArg (v :: ·) hsplit, (run_awaiting_cons ..).trans hrun, hleft,
      hcmderr.trans (t.engineStep_frame v).1, hinputs, fun k hk => ?_⟩
    obtain _ | k := k
    · exact ⟨_, rfl, (State.busy_eq_true_iff _).2 hp⟩
    · rw [run_awaiting_cons]
      exact hbusy k (Nat.lt_of_succ_lt_succ hk)

/-- The first step of an idle block that finds a SEARCH in front accepts it (41_search.md R121). -/
theorem run_search {s : State} (hidle : s.phase = .idle) (inputs : List Input) (n : Nat) :
    run (1 + n) { s with inputs := commandWrite (encode .search) :: inputs } =
      run n ((State.startSearch { s with cmderr := false }).withInputs inputs) := by
  have hidle' : ({ s with inputs := inputs } : State).busy = false := (State.busy_eq_false_iff _).2 hidle
  have haccept : step { s with inputs := commandWrite (encode .search) :: inputs } =
      .next ((State.startSearch { s with cmderr := false }).withInputs inputs) := by
    refine (step_facing_commandWrite { s with inputs := inputs } (encode .search)).trans ?_
    rw [submit_of_decode (decode_encode .search), exec_of_idle hidle', acceptedEffect]
    unfold State.startSearch
    rw [apply_ite (State.withInputs · inputs)]
    rfl
  rw [Nat.add_comm, run, haccept]

/-- Settles O26: the accepted SEARCH agrees with the reference operation, by induction on the bits of the command byte
and on the positions of the walk, and is run to where that stands. -/
theorem searchMachineEqualsReference : Obligations.SearchMachineEqualsReference := by
  intro s answers hidle
  have hagrees : Agrees (State.startSearch { s with cmderr := false }) answers (refSearch s.walkRegs answers) :=
    startSearch_agrees { s with cmderr := false } answers
  obtain ⟨used, u, hsplit, hrun, hleft, hcmderr, hinputs, hbusy⟩ := hagrees.run_awaiting s.inputs
  have hcmderr' : u.cmderr = false := hcmderr.trans (acceptedEffect_frame .search _).1
  have haccept := run_search hidle (answers.map .busCompletion ++ s.inputs)
  have hwalks : ∀ k, 1 ≤ k → k ≤ used.length → ∃ t, run k
      { s with inputs := commandWrite (encode .search) :: answers.map .busCompletion ++ s.inputs } = .next t ∧
        t.busy = true := by
    intro k hk hk'
    obtain ⟨j, rfl⟩ := Nat.exists_eq_add_of_le hk
    obtain ⟨u', hrun', hbusy'⟩ := hbusy j (by omega)
    exact ⟨u', (haccept j).trans hrun', hbusy'⟩
  generalize refSearch s.walkRegs answers = w at hsplit hleft hinputs
  cases w with
  | finished o r unused =>
    obtain ⟨hphase, hregs, houtcome⟩ := hleft
    exact ⟨used, hsplit, ⟨u, (haccept _).trans hrun, hphase, hregs, houtcome, hcmderr', hinputs⟩, hwalks⟩
  | stalled r =>
    obtain ⟨hwaits, hregs⟩ := hleft
    obtain rfl : answers = used := hsplit.trans (List.append_nil used)
    refine ⟨⟨u, (haccept _).trans hrun, hregs, hcmderr', hinputs⟩, fun k hk hk' => ?_⟩
    rcases hk'.lt_or_eq with hlt | rfl
    · exact hwalks k hk (by omega)
    · exact ⟨u, (haccept _).trans hrun, hwaits⟩

end Sys2Proof.Machine

namespace Sys2Proof.Machine

/-! # The fork LD marks after a Found -/

/-- On a stable bus a SEARCH that reports FOUND = 1 completed its walk, on the identifier it returns, and left the
deepest open fork in LD (41_search.md R133, R156). -/
theorem search_found {x : System RefBus} (hfault : x.bus.fault = .none) (hidle : x.block.phase = .idle)
    (hterminal : x.block.terminal = false) (hfound : (x.search RefBus.channel).block.found = true) :
    DeepestFork x.bus.devs (x.search RefBus.channel).block.cand 65 (x.search RefBus.channel).block.ld.toNat := by
  have hdevs : x.bus.devs ≠ [] := by
    intro hnil
    obtain ⟨hnot, -⟩ := search_busEmpty hnil hfault hidle hterminal
    exact Bool.false_ne_true (hnot.symm.trans hfound)
  obtain ⟨c, fork, h⟩ := search_walkCompletes hdevs hfault hidle hterminal
  have hfam : familyByte c ≠ 0x00#8 := by
    intro hzero
    obtain ⟨-, hnot, -⟩ := h.degenerate hzero
    exact Bool.false_ne_true (hnot.symm.trans hfound)
  obtain ⟨-, -, hcand, hld, -⟩ := h.found hfam
  rw [hcand, hld]
  exact h.walked.deepest

/-- Settles O44: the walk keeps its pending fork the deepest open one, and a Found leaves it in LD. -/
theorem ldIsTheDeepestOpenFork : Obligations.LdIsTheDeepestOpenFork := by
  intro x _ hfault hidle hterminal y openFork hfound
  have hdeepest := search_found hfault hidle hterminal hfound
  constructor
  · intro hld
    obtain ⟨d, hd, hdiv⟩ := hdeepest.is_open fun h0 => hld (BitVec.eq_of_toNat_eq h0)
    exact ⟨hdiv.low, d, hd, hdiv.high, fun q hq hqp => hdiv.agree q hqp hq⟩
  · rintro p hp hp' hlt ⟨hlow, d, hd, hhigh, hagree⟩
    exact hdeepest.none_deeper p hlt (Nat.lt_succ_of_le hp')
      ⟨d, hd, hp, hp', hlow, hhigh, fun q hqp hq => hagree q hq hqp⟩

/-! # SEARCHes one after another -/

section Searches
variable {β : Type} {ch : BitChannel β}

theorem System.searches_add (m n : Nat) (x : System β) : x.searches ch (m + n) = (x.searches ch m).searches ch n := by
  induction m generalizing x with
  | zero => rw [Nat.zero_add]; rfl
  | succ m ih => rw [Nat.add_right_comm]; exact ih (x.search ch)

/-- What every SEARCH keeps holds after any number of them. -/
theorem System.searches_keeps {P : System β → Prop} (hkeep : ∀ x, P x → P (x.search ch)) {x : System β} (h : P x)
    (n : Nat) : P (x.searches ch n) := by
  induction n generalizing x with
  | zero => exact h
  | succ n ih => exact ih (hkeep x h)

/-- The last of some SEARCHes begins in a state that the ones before it kept. -/
theorem System.searches_last {P Q : System β → Prop} (hkeep : ∀ x, P x → P (x.search ch))
    (hlast : ∀ x, P x → Q (x.search ch)) {x : System β} (h : P x) {n : Nat} (hn : 0 < n) : Q (x.searches ch n) := by
  obtain ⟨m, rfl⟩ := Nat.exists_eq_add_of_le' hn
  rw [System.searches_add]
  exact hlast _ (System.searches_keeps hkeep h m)

/-- A SEARCH whose bus reset sees no presence ends in that transaction (41_search.md R122). -/
theorem search_noPresence {x : System β} {bus' : β} (hidle : x.block.phase = .idle)
    (hterminal : x.block.terminal = false) (ha : ch.answer x.bus .reset = some (bus', false)) :
    x.search ch =
      { block := State.failSearch
          { x.block with cmderr := false, lastZero := 0#7, trace := [.reset false] } .busEmptyOrFaulted
        bus := bus' } := by
  obtain ⟨hbus, hblock⟩ := x.command_search_starts hidle hterminal
  have hphase : (x.command (encode .search)).block.phase = .busRst := by rw [hblock]
  have hrequest : (x.command (encode .search)).block.request = some .reset := by simp [State.request, hphase]
  rw [System.search, System.wait_succ, System.transact_of_answer hrequest (hbus ▸ ha), State.engineStep_busRst hphase,
    System.wait_of_idle rfl, hblock]
  rfl

end Searches

/-! # The enumeration, SEARCH by SEARCH -/

/-- The enumeration has still to return the devices of `rest`, in that order, and no other (41_search.md R150, R151). -/
structure Remaining (x : System RefBus) (rest : List Ident) : Prop where
  enumerating : Enumerating x
  family : ∀ d ∈ x.bus.devs, familyByte d ≠ 0x00#8
  sorted : rest.Pairwise fun a b => enumerationKey a < enumerationKey b
  mem_iff : ∀ d, d ∈ rest ↔ d ∈ x.bus.devs ∧ x.block.Awaits d

section Remaining
variable {x : System RefBus} {first : Ident} {before rest : List Ident}

/-- From the cleared state all the attached devices are still to come, in the order of the key. -/
theorem Remaining.of_cleared (hdistinct : x.bus.devs.Nodup) (hfam : ∀ d ∈ x.bus.devs, familyByte d ≠ 0x00#8)
    (hfault : x.bus.fault = .none) (hidle : x.block.phase = .idle) (hcleared : x.block.cleared) :
    Remaining x (ascending x.bus.devs) := by
  obtain ⟨-, hld, -, hterminal⟩ := hcleared
  have hzero : x.block.ld.toNat = 0 := by rw [hld]; rfl
  exact {
    enumerating := ⟨hfault, hidle, fun _ hne => absurd hzero hne⟩
    family := hfam
    sorted := pairwise_ascending hdistinct
    mem_iff := fun d => (ascending_perm _).mem_iff.trans (and_iff_left ⟨hterminal, .inl hzero⟩).symm }

/-- The next SEARCH returns the first device still to come. -/
theorem Remaining.search (h : Remaining x (first :: rest)) :
    Returns x (x.search RefBus.channel) first ∧ Remaining (x.search RefBus.channel) rest := by
  obtain ⟨hdev, hawaits⟩ := (h.mem_iff first).1 List.mem_cons_self
  obtain ⟨c, hc⟩ := h.enumerating.search_returns h.family hdev hawaits
  obtain ⟨rfl, hrest⟩ := hc.awaits_rest h.sorted h.mem_iff
  exact ⟨hc, hc.enumerating, hc.devs ▸ h.family, h.sorted.of_cons, hrest⟩

/-- As many SEARCHes as there are devices in a first part of the order leave the second part, on the same bus. -/
theorem Remaining.searches (h : Remaining x (before ++ rest)) :
    Remaining (x.searches RefBus.channel before.length) rest ∧
      (x.searches RefBus.channel before.length).bus.devs = x.bus.devs := by
  induction before generalizing x with
  | nil => exact ⟨h, rfl⟩
  | cons first before ih =>
    obtain ⟨hreturns, hrest⟩ := h.search
    obtain ⟨hrest', hdevs⟩ := ih hrest
    exact ⟨hrest', hdevs.trans hreturns.devs⟩

/-- With a device attached, terminal is 1 exactly when no device is still to come (41_search.md R152). -/
theorem Remaining.terminal_iff (h : Remaining x rest) (hdevs : x.bus.devs ≠ []) :
    x.block.terminal = true ↔ rest = [] := by
  constructor
  · intro hterminal
    refine List.eq_nil_iff_forall_not_mem.2 fun d hd => ?_
    obtain ⟨-, hnot, -⟩ := (h.mem_iff d).1 hd
    exact Bool.false_ne_true (hnot.symm.trans hterminal)
  · rintro rfl
    have hnone : ∀ d ∈ x.bus.devs, ¬ x.block.Awaits d := fun d hd ha => List.not_mem_nil ((h.mem_iff d).2 ⟨hd, ha⟩)
    by_contra hnot
    have hterminal : x.block.terminal = false := Bool.eq_false_iff.2 hnot
    obtain ⟨d, hd⟩ := List.exists_mem_of_ne_nil _ hdevs
    by_cases hld : x.block.ld.toNat = 0
    · exact hnone d hd ⟨hterminal, .inl hld⟩
    · obtain ⟨a, ha, hdiv⟩ := (h.enumerating.deepest hterminal hld).is_open hld
      exact hnone a ha ⟨hterminal, .inr (enumerationKey_lt_iff.2 ⟨_, hdiv⟩)⟩

/-- The SEARCH after a first part of the order returns the device after it, and sets terminal when it is the last. -/
theorem Remaining.searches_returns (h : Remaining x (before ++ first :: rest)) :
    let y := (x.searches RefBus.channel (before.length + 1)).block
    y.phase = .idle ∧ y.found = true ∧ y.cand = first ∧ (y.terminal = true ↔ rest = []) := by
  obtain ⟨hstands, hdevs⟩ := h.searches
  obtain ⟨hreturns, hrest⟩ := hstands.search
  rw [System.searches_add]
  refine ⟨hreturns.enumerating.idle, hreturns.found, hreturns.cand, hrest.terminal_iff ?_⟩
  rw [hreturns.devs]
  exact List.ne_nil_of_mem hreturns.mem

end Remaining

/-- Once terminal is 1, every SEARCH is Exhausted without a transaction (41_search.md R152). -/
theorem searches_exhausted {β : Type} {ch : BitChannel β} {x : System β} (hidle : x.block.phase = .idle)
    (hterminal : x.block.terminal = true) {n : Nat} (hn : 0 < n) :
    let y := (x.searches ch n).block
    y.phase = .idle ∧ y.found = false ∧ y.outcome = some .exhausted ∧ y.trace = [] := by
  refine System.searches_last (P := fun x => x.block.phase = .idle ∧ x.block.terminal = true)
    (Q := fun y => y.block.phase = .idle ∧ y.block.found = false ∧ y.block.outcome = some .exhausted ∧
      y.block.trace = []) ?_ ?_ ⟨hidle, hterminal⟩ hn
  · rintro x ⟨hi, ht⟩
    rw [search_exhausted hi ht]
    exact ⟨hi, ht⟩
  · rintro x ⟨hi, ht⟩
    rw [search_exhausted hi ht]
    exact ⟨hi, rfl, rfl, rfl⟩

/-- With no device attached, every SEARCH ends without a presence answer (41_search.md R154). -/
theorem searches_busEmpty {x : System RefBus} (hdevs : x.bus.devs = []) (hfault : x.bus.fault = .none)
    (hidle : x.block.phase = .idle) (hterminal : x.block.terminal = false) {n : Nat} (hn : 0 < n) :
    let y := (x.searches RefBus.channel n).block
    y.phase = .idle ∧ y.found = false ∧ y.outcome = some .busEmptyOrFaulted := by
  have hanswer (x : System RefBus) (hd : x.bus.devs = []) (hf : x.bus.fault = .none) :
      RefBus.channel.answer x.bus .reset = some (x.bus.onReset.1, false) := by
    simp [RefBus.channel, RefBus.onReset, hd, hf]
  refine System.searches_last
    (P := fun x => x.bus.devs = [] ∧ x.bus.fault = .none ∧ x.block.phase = .idle ∧ x.block.terminal = false)
    (Q := fun y => y.block.phase = .idle ∧ y.block.found = false ∧ y.block.outcome = some .busEmptyOrFaulted)
    ?_ ?_ ⟨hdevs, hfault, hidle, hterminal⟩ hn
  · rintro x ⟨hd, hf, hi, ht⟩
    rw [search_noPresence hi ht (hanswer x hd hf)]
    exact ⟨hd, hf, rfl, rfl⟩
  · rintro x ⟨hd, hf, hi, ht⟩
    rw [search_noPresence hi ht (hanswer x hd hf)]
    exact ⟨rfl, rfl, rfl⟩

theorem ascending_eq_nil_iff (devs : List Ident) : ascending devs = [] ↔ devs = [] := by
  rw [← List.length_eq_zero_iff, (ascending_perm devs).length_eq, List.length_eq_zero_iff]

/-- Settles O45: the k-th SEARCH leaves the order without its first k devices, and with none left terminal is 1, or no
device was attached. -/
theorem enumerationIsCompleteAndOrdered : Obligations.EnumerationIsCompleteAndOrdered := by
  intro x hdistinct hfam hfault hidle hcleared
  have hstart := Remaining.of_cleared hdistinct hfam hfault hidle hcleared
  obtain ⟨-, -, -, hterminal⟩ := hcleared
  refine ⟨_, ascending_perm _, hstart.sorted, fun k id hk => ?_, fun k hk => ?_⟩
  · obtain ⟨hlt, hid⟩ := List.getElem?_eq_some_iff.1 hk
    have hsplit : (ascending x.bus.devs).take k ++ id :: (ascending x.bus.devs).drop (k + 1) = ascending x.bus.devs := by
      rw [← hid, ← List.drop_eq_getElem_cons hlt, List.take_append_drop]
    have hlast : (ascending x.bus.devs).drop (k + 1) = [] ↔ k + 1 = (ascending x.bus.devs).length := by
      rw [List.drop_eq_nil_iff]; omega
    have hreturns := (hsplit ▸ hstart).searches_returns
    rwa [List.length_take_of_le hlt.le, hlast] at hreturns
  · by_cases hnil : x.bus.devs = []
    · have horder := (ascending_eq_nil_iff _).2 hnil
      obtain ⟨hidle', hfound, houtcome⟩ := searches_busEmpty hnil hfault hidle hterminal (Nat.zero_lt_of_lt hk)
      exact ⟨hidle', hfound, by rw [houtcome, if_pos horder], fun hne => absurd horder hne⟩
    · have horder := (ascending_eq_nil_iff _).not.2 hnil
      have hall : Remaining x (ascending x.bus.devs ++ []) := by rwa [List.append_nil]
      obtain ⟨hend, hdevs⟩ := hall.searches
      have hdone := (hend.terminal_iff (by rwa [hdevs])).2 rfl
      obtain ⟨m, rfl⟩ := Nat.exists_eq_add_of_lt hk
      obtain ⟨hidle', hfound, houtcome, htrace⟩ :=
        searches_exhausted (ch := RefBus.channel) hend.enumerating.idle hdone (Nat.succ_pos m)
      rw [Nat.add_assoc, System.searches_add]
      exact ⟨hidle', hfound, by rw [if_neg horder]; exact houtcome, fun _ => htrace⟩

/-! # A device of family 0x00 -/

/-- A walk from LD = 0 ends on a device of family 0x00 when one is attached: up to position 8 that device has the bits a
discrepancy resolves to (41_search.md R157). -/
theorem Walked.familyByte_eq_zero {devs : List Ident} {c₀ c z : Ident} {fork : Nat}
    (h : Walked devs c₀ 0 65 c fork) (hz : z ∈ devs) (hfam : familyByte z = 0x00#8) : familyByte c = 0x00#8 := by
  by_cases hne : z = c
  · exact hne ▸ hfam
  obtain ⟨p, -, hdiv⟩ := h.divergesAt_of_aimed hz (.inl rfl) hne
  have hp : 9 ≤ p := by
    by_contra hlt
    have hbit := (familyByte_eq_zero_iff z).1 hfam p hdiv.one_le (by omega)
    exact Bool.false_ne_true (hbit.symm.trans hdiv.high)
  rw [familyByte_eq_of_agreeBelow (hdiv.agree.mono hp), hfam]

/-- A system in which every SEARCH is Degenerate: the block is idle and cleared, and a device of family 0x00 is attached
(41_search.md R157). -/
structure BlockedBy (z : Ident) (x : System RefBus) : Prop where
  mem : z ∈ x.bus.devs
  family : familyByte z = 0x00#8
  fault : x.bus.fault = .none
  idle : x.block.phase = .idle
  cleared : x.block.cleared

theorem BlockedBy.search {z : Ident} {x : System RefBus} (h : BlockedBy z x) :
    BlockedBy z (x.search RefBus.channel) ∧ (x.search RefBus.channel).block.outcome = some .degenerateResult ∧
      (x.search RefBus.channel).block.found = false := by
  obtain ⟨-, hld, -, hterminal⟩ := h.cleared
  obtain ⟨c, fork, hwalk⟩ := search_walkCompletes (List.ne_nil_of_mem h.mem) h.fault h.idle hterminal
  have hwalked := hwalk.walked
  rw [hld] at hwalked
  obtain ⟨houtcome, hfound, hcleared⟩ := hwalk.degenerate (hwalked.familyByte_eq_zero h.mem h.family)
  exact ⟨⟨hwalk.devs ▸ h.mem, h.family, hwalk.fault, hwalk.phase, hcleared⟩, houtcome, hfound⟩

/-- Settles O47: every SEARCH walks to a device of family 0x00 and clears the state again, so that ENUMERATE stops in
its first round. -/
theorem familyZeroDeviceBlocksEnumeration : Obligations.FamilyZeroDeviceBlocksEnumeration := by
  intro x z hz hfam _ hfault hidle
  refine ⟨fun hcleared n hn => ?_, fun n => ?_⟩
  · refine System.searches_last (P := BlockedBy z) (Q := fun y => y.block.outcome = some .degenerateResult ∧
      y.block.found = false ∧ y.block.cleared) (fun _ h => h.search.1) (fun y h => ?_)
      ⟨hz, hfam, hfault, hidle, hcleared⟩ hn
    obtain ⟨hblocked, houtcome, hfound⟩ := h.search
    exact ⟨houtcome, hfound, hblocked.cleared⟩
  · obtain _ | n := n
    · rfl
    have hrstate : (x.run RefBus.channel (.command .rstate)).sys = x.sys.command (encode .rstate) := rfl
    have hblocked : BlockedBy z (x.run RefBus.channel (.command .rstate)).sys := by
      rw [hrstate, System.command_of_idle hidle]
      exact ⟨hz, hfam, hfault, hidle, rfl, rfl, rfl, rfl⟩
    obtain ⟨-, -, hfound⟩ := hblocked.search
    exact Session.enumerateLoop_of_not_found n hfound

end Sys2Proof.Machine

namespace Sys2Proof.Machine

/-! # A bus without presence, and a shorted bus -/

/-- Settles O41: the first transaction of the SEARCH ends it, with the block cleared. -/
theorem zeroDeviceBus : Obligations.ZeroDeviceBus := by
  intro β ch x hidle hcleared hpresence
  obtain ⟨-, -, -, hterminal⟩ := hcleared
  obtain ⟨bus', ha⟩ := hpresence x.bus
  rw [search_noPresence hidle hterminal ha]
  exact ⟨rfl, rfl, ⟨rfl, rfl, rfl, rfl⟩, rfl, rfl⟩

section Short
variable {β : Type} {ch : BitChannel β} {x : System β}

/-- A command bit whose write the bus completes is one step in phase CMDBIT (41_search.md R142). -/
theorem transact_commandBit (hwrite : ∀ b d, ∃ b' v, ch.answer b (.write d) = some (b', v))
    (hp : x.block.phase = .cmdBit) : ∃ bus', x.transact ch = { block := x.block.cmdBitStep, bus := bus' } := by
  obtain ⟨bus', v, ha⟩ := hwrite x.bus (searchCmdBit x.block.cmdIdx)
  have hrequest : x.block.request = some (.write (searchCmdBit x.block.cmdIdx)) := by simp [State.request, hp]
  exact ⟨bus', by rw [System.transact_of_answer hrequest ha, State.engineStep_cmdBit hp]⟩

/-- When the bits of the command byte still to send are completed, the walk stands at position 1 (41_search.md R142). -/
theorem wait_commandBits (hwrite : ∀ b d, ∃ b' v, ch.answer b (.write d) = some (b', v))
    (hp : x.block.phase = .cmdBit) {m : Nat} (hm : x.block.cmdIdx.toNat + m = 7) (n : Nat) :
    ∃ y : System β, y.block.phase = .rdId ∧ y.block.pos = 1#7 ∧
      y.block.trace.length = x.block.trace.length + (m + 1) ∧ x.wait ch (n + (m + 1)) = y.wait ch n := by
  induction m generalizing x with
  | zero =>
    obtain ⟨bus', htransact⟩ := transact_commandBit hwrite hp
    have hlast : ¬x.block.cmdIdx < 7#3 := by simp [BitVec.lt_def]; omega
    rw [System.wait_succ, htransact, State.cmdBitStep, if_neg hlast]
    exact ⟨_, rfl, rfl, rfl, rfl⟩
  | succ m ih =>
    obtain ⟨bus', htransact⟩ := transact_commandBit hwrite hp
    have hbefore : x.block.cmdIdx < 7#3 := by simp [BitVec.lt_def]; omega
    rw [State.cmdBitStep, if_pos hbefore] at htransact
    obtain ⟨y, hphase, hpos, hlength, hwait⟩ := ih (x := x.transact ch) (by rw [htransact]; exact hp)
      (by rw [htransact]; simp; omega)
    refine ⟨y, hphase, hpos, ?_, ?_⟩
    · rw [hlength, htransact]
      simp; omega
    · rw [← Nat.add_assoc, System.wait_succ, hwait]

/-- A pair read as (1,1) ends the walk in two transactions (41_search.md R125). -/
theorem wait_anomaly (hread : ∀ b, ∃ b', ch.answer b .read = some (b', true)) (hp : x.block.phase = .rdId) (n : Nat) :
    (x.wait ch (n + 2)).block = State.failSearch
      { x.block with idb := true, cmpb := true, trace := .read true :: .read true :: x.block.trace }
      .busContentionAnomaly := by
  obtain ⟨bus₁, ha₁⟩ := hread x.bus
  have hrequest : x.block.request = some .read := by simp [State.request, hp]
  obtain ⟨bus₂, ha₂⟩ := hread bus₁
  have hrequest' : (State.rdIdStep true x.block).request = some .read := rfl
  rw [System.wait_succ, System.transact_of_answer hrequest ha₁, State.engineStep_rdId hp, System.wait_succ,
    System.transact_of_answer hrequest' ha₂, State.engineStep_rdCmp rfl, System.wait_of_idle rfl]
  rfl

end Short

/-- Settles O42: the bus reset, the eight bits of the command byte, and the two reads at position 1. -/
theorem busShort : Obligations.BusShort := by
  intro β ch x hidle hterminal hpresence hread hwrite
  obtain ⟨bus', ha⟩ := hpresence x.bus
  obtain ⟨hbus, hblock⟩ := x.command_search_starts hidle hterminal
  have hphase : (x.command (encode .search)).block.phase = .busRst := by rw [hblock]
  have hrequest : (x.command (encode .search)).block.request = some .reset := by simp [State.request, hphase]
  have htransact := System.transact_of_answer hrequest (hbus ▸ ha)
  rw [State.engineStep_busRst hphase, hblock] at htransact
  obtain ⟨y, hy, hpos, hlength, hwait⟩ := wait_commandBits (x := (x.command (encode .search)).transact ch) hwrite
    (by rw [htransact]; rfl) (m := 7) (by rw [htransact]; rfl) 192
  have hend := wait_anomaly hread hy 190
  rw [← hwait, ← System.wait_succ] at hend
  rw [htransact] at hlength
  have hsearch : (x.search ch).block = _ := hend
  rw [hsearch]
  exact ⟨rfl, rfl, ⟨rfl, rfl, rfl, rfl⟩, rfl, hpos, congrArg (· + 2) hlength⟩

/-! # A single device -/

/-- What every Engine step keeps of the block is kept while transactions complete. -/
theorem System.wait_keeps {β : Type} {ch : BitChannel β} {P : State → Prop} (hkeep : ∀ s v, P s → P (s.engineStep v))
    {x : System β} (h : P x.block) (n : Nat) : P (x.wait ch n).block := by
  induction n generalizing x with
  | zero => exact h
  | succ n ih =>
    rw [System.wait_succ]
    apply ih
    cases hr : x.block.request with
    | none => rwa [System.transact_of_no_request hr]
    | some r =>
      cases ha : ch.answer x.bus r with
      | none => rwa [System.transact_of_stall hr ha]
      | some p => rw [System.transact_of_answer hr ha]; exact hkeep x.block p.2 h

/-- A SEARCH that began with LFD = `lfd` writes LFD only together with a pending fork, which is a position and so not 0
(41_search.md R128, R129). -/
structure LfdFollowsFork (lfd : BitVec 4) (s : State) : Prop where
  position : s.phase.walking = true → s.pos ≠ 0#7
  running : s.phase ≠ .idle → s.lastZero = 0#7 → s.lfd = lfd
  ended : s.phase = .idle → s.found = true → s.ld = 0#7 → s.lfd = lfd

theorem LfdFollowsFork.engineStep {lfd : BitVec 4} (s : State) (v : Bool) (h : LfdFollowsFork lfd s) :
    LfdFollowsFork lfd (s.engineStep v) := by
  by_cases hidle : s.phase = .idle
  · rwa [State.engineStep_idle hidle]
  rcases s.engineStep_goesOn_or_ends v hidle with hgo | hend
  · generalize s.engineStep v = t at hgo
    refine ⟨?_, fun _ => ?_, fun hp => absurd hp hgo.phase_ne_idle⟩
    · intro hw
      cases hgo with
      | presence => cases hw
      | commandBit hp => simp [hp, Phase.walking] at hw
      | lastCommandBit => simp
      | identifierBit hp | resolved hp => exact h.position (by rw [hp]; rfl)
      | stored hp hpos => simp [BitVec.toNat_eq]; omega
    · cases hgo with
      | resolved hp =>
        have hpos : s.pos ≠ 0#7 := h.position (by rw [hp]; rfl)
        rw [State.resolvePair_lastZero, State.resolvePair_lfd]
        split
        next hpending => exact fun hzero => absurd hzero hpos
        next hpending =>
          rw [if_neg fun hboth => hpending hboth.1]
          exact h.running hidle
      | presence | commandBit | lastCommandBit | identifierBit | stored => exact h.running hidle
  · generalize s.engineStep v = t at hend
    refine ⟨fun hw => ?_, fun hp => absurd hend.phase_eq_idle hp, fun _ hfound => ?_⟩
    · rw [hend.phase_eq_idle] at hw; cases hw
    · cases hend with
      | noPresence | anomaly | degenerate => cases hfound
      | found => exact h.running hidle

/-- A SEARCH that reports FOUND = 1 with LD = 0 met no pending fork and left LFD alone (41_search.md R129, R139). -/
theorem search_lfd_of_no_fork {β : Type} {ch : BitChannel β} {x : System β} (hidle : x.block.phase = .idle)
    (hterminal : x.block.terminal = false) (hend : (x.search ch).block.phase = .idle)
    (hfound : (x.search ch).block.found = true) (hld : (x.search ch).block.ld = 0#7) :
    (x.search ch).block.lfd = x.block.lfd := by
  obtain ⟨-, hblock⟩ := x.command_search_starts hidle hterminal
  have hstart : LfdFollowsFork x.block.lfd (x.command (encode .search)).block := by
    rw [hblock]
    exact ⟨nofun, fun _ _ => rfl, nofun⟩
  exact (System.wait_keeps LfdFollowsFork.engineStep hstart Config.longestSearch).ended hend hfound hld

/-- Settles O50: the walk can only end on the one device, which leaves no fork open. -/
theorem singleDeviceIsFoundThenExhausted : Obligations.SingleDeviceIsFoundThenExhausted := by
  intro x d hdevs hfam hfault hidle hterminal
  obtain ⟨c, fork, h⟩ := search_walkCompletes (by simp [hdevs]) hfault hidle hterminal
  obtain rfl : c = d := by simpa [hdevs] using h.walked.mem
  obtain ⟨-, hfound, hcand, hld, hterm⟩ := h.found hfam
  have hfork : fork = 0 := by
    by_contra hne
    obtain ⟨a, ha, hdiv⟩ := h.walked.deepest.is_open hne
    obtain rfl : a = c := by simpa [hdevs] using ha
    exact Bool.false_ne_true (hdiv.low.symm.trans hdiv.high)
  have hzero : (x.search RefBus.channel).block.ld = 0#7 := BitVec.eq_of_toNat_eq (by rw [hld, hfork]; rfl)
  have hlast : (x.search RefBus.channel).block.terminal = true := by rw [hterm, hfork]; rfl
  refine ⟨hfound, hcand, hzero, search_lfd_of_no_fork hidle hterminal h.phase hfound hzero, hlast, ?_⟩
  rw [search_exhausted h.phase hlast]

end Sys2Proof.Machine

namespace Sys2Proof.Machine

/-! # What changes the block, and what does not -/

/-- Settles O30: with no input pending the block waits, and delivering one never stops the machine. -/
theorem stepNeverStops : Obligations.StepNeverStops := by
  intro s
  cases hinputs : s.inputs with
  | nil => exact ⟨s, step_of_no_input hinputs⟩
  | cons i rest => rw [step_of_input hinputs]; exact deliver_next i _

/-- Settles O31: of the five kinds of input, an ignored one changes nothing and a host read only its own record. -/
theorem onlyThreeEventsChangeTheBlock : Obligations.OnlyThreeEventsChangeTheBlock := by
  intro s t i h
  rw [step_facing] at h
  rcases deliver_cases i s with ⟨value, hi, -⟩ | ⟨-, hd⟩ | ⟨idx, -, hd⟩ | ⟨v, hi, -⟩ | ⟨hi, -⟩
  · exact .inl ⟨value, hi⟩
  · cases hd.symm.trans h; exact .inr (.inr (.inr rfl))
  · cases hd.symm.trans h; exact .inr (.inr (.inr rfl))
  · exact .inr (.inl ⟨v, hi⟩)
  · exact .inr (.inr (.inl hi))

/-! # A SEARCH that waits for its transaction -/

section Stalled
variable {s : State}

/-- A busy block rejects every word written to CMD (30_encoding.md R87, R88). -/
theorem submit_of_busy (hb : s.busy = true) (w : CommandWord) : submit w s = .next s.rejectCommand := by
  rcases submit_cases w s with ⟨-, -, hidle, -⟩ | ⟨-, h⟩
  · exact absurd hidle ((State.busy_eq_true_iff s).1 hb)
  · exact h

/-- An input that is no completion and no power-on reset reaches only CMDERR and the record of the last host read of a
busy block (30_encoding.md R88; 60_exceptions.md R189). -/
theorem deliver_of_stalled {i : Input} (hb : s.busy = true) (hpower : i ≠ .powerOn)
    (hcompletion : ∀ v, i ≠ .busCompletion v) :
    ∃ cmderr lastRead, deliver i s = .next { s with cmderr := cmderr, lastRead := lastRead } := by
  rcases deliver_cases i s with ⟨value, -, hd⟩ | ⟨-, hd⟩ | ⟨idx, -, hd⟩ | ⟨v, hi, -⟩ | ⟨hi, -⟩
  · exact ⟨true, s.lastRead, hd.trans (submit_of_busy hb _)⟩
  · exact ⟨s.cmderr, s.lastRead, hd⟩
  · exact ⟨s.cmderr, some (idx, s.readReg idx), hd⟩
  · exact absurd hi (hcompletion v)
  · exact absurd hi hpower

/-- With only such inputs pending, a step of a busy block takes the next one and reaches no more than they do
(60_exceptions.md R189). -/
theorem step_of_stalled (hb : s.busy = true)
    (hstall : ∀ i ∈ s.inputs, i ≠ .powerOn ∧ ∀ v, i ≠ .busCompletion v) :
    ∃ cmderr lastRead, step s = .next { s with cmderr := cmderr, lastRead := lastRead, inputs := s.inputs.tail } := by
  cases hinputs : s.inputs with
  | nil =>
    refine ⟨s.cmderr, s.lastRead, (step_of_no_input hinputs).trans ?_⟩
    rw [List.tail_nil, ← hinputs]
  | cons i rest =>
    obtain ⟨hpower, hcompletion⟩ := hstall i (by simp [hinputs])
    rw [step_of_input hinputs]
    exact deliver_of_stalled (s := { s with inputs := rest }) hb hpower hcompletion

/-- No run gets further: after each step the block is still busy, and what is pending is the rest of the same inputs
(60_exceptions.md R189). -/
theorem run_of_stalled (hb : s.busy = true)
    (hstall : ∀ i ∈ s.inputs, i ≠ .powerOn ∧ ∀ v, i ≠ .busCompletion v) (n : Nat) :
    ∃ cmderr lastRead inputs,
      run n s = .next { s with cmderr := cmderr, lastRead := lastRead, inputs := inputs } := by
  induction n generalizing s with
  | zero => exact ⟨s.cmderr, s.lastRead, s.inputs, rfl⟩
  | succ n ih =>
    obtain ⟨cmderr, lastRead, hstep⟩ := step_of_stalled hb hstall
    rw [run, hstep]
    exact ih (s := { s with cmderr := cmderr, lastRead := lastRead, inputs := s.inputs.tail }) hb
      fun i hi => hstall i (List.mem_of_mem_tail hi)

end Stalled

/-- Settles O28: every run of a stalled SEARCH leaves the phase and all registers but CMDERR. -/
theorem stalledSearchWaits : Obligations.StalledSearchWaits := by
  intro s t n hb hstall hrun
  obtain ⟨cmderr, lastRead, inputs, h⟩ := run_of_stalled hb hstall n
  cases h.symm.trans hrun
  exact ⟨rfl, hb⟩

/-! # TERMINAL after FOUND = 0 -/

/-- A SEARCH that walks has terminal = 0, and where it ends with FOUND = 0 it cleared SearchState in a failure, which
is never Exhausted (60_exceptions.md R170, R175). -/
structure FailureClears (s : State) : Prop where
  running : s.phase ≠ .idle → s.terminal = false
  ended : s.phase = .idle → s.found = false → s.cleared ∧ s.outcome ≠ some .exhausted

theorem FailureClears.engineStep (s : State) (v : Bool) (h : FailureClears s) : FailureClears (s.engineStep v) := by
  by_cases hidle : s.phase = .idle
  · rwa [State.engineStep_idle hidle]
  rcases s.engineStep_goesOn_or_ends v hidle with hgo | hend
  · obtain ⟨-, hterminal, -, -⟩ := hgo.result_frame
    exact ⟨fun _ => hterminal.trans (h.running hidle), fun hp => absurd hp hgo.phase_ne_idle⟩
  · refine ⟨fun hp => absurd hend.phase_eq_idle hp, fun _ hfound => ?_⟩
    generalize s.engineStep v = t at hend hfound
    cases hend with
    | noPresence | anomaly | degenerate => exact ⟨⟨rfl, rfl, rfl, rfl⟩, nofun⟩
    | found => cases hfound

/-- A SEARCH accepted with terminal = 0 that ends with FOUND = 0 failed (60_exceptions.md R170, R175). -/
theorem search_failureClears {β : Type} (ch : BitChannel β) {x : System β} (hidle : x.block.phase = .idle)
    (hterminal : x.block.terminal = false) : FailureClears (x.search ch).block := by
  obtain ⟨-, hblock⟩ := x.command_search_starts hidle hterminal
  have hstart : FailureClears (x.command (encode .search)).block := by
    rw [hblock]
    exact ⟨fun _ => hterminal, nofun⟩
  exact System.wait_keeps FailureClears.engineStep hstart Config.longestSearch

/-- Settles O32: with terminal = 1 the SEARCH is Exhausted at once, and with terminal = 0 it can only have failed. -/
theorem terminalTellsExhaustedFromFailure : Obligations.TerminalTellsExhaustedFromFailure := by
  intro β ch x hidle hend hfound
  cases hterminal : x.block.terminal with
  | true =>
    rw [search_exhausted hidle hterminal]
    exact ⟨iff_of_true hterminal rfl, fun h => absurd (hterminal.symm.trans h) nofun⟩
  | false =>
    obtain ⟨hcleared, houtcome⟩ := (search_failureClears ch hidle hterminal).ended hend hfound
    have hzero : (x.search ch).block.terminal = false := by obtain ⟨-, -, -, h⟩ := hcleared; exact h
    exact ⟨iff_of_false (by simp [hzero]) houtcome, fun _ => hcleared⟩

end Sys2Proof.Machine

namespace Sys2Proof.Machine

/-! # A SEARCH whose transactions complete -/

/-- The most transactions that the running SEARCH still performs: three at each position from `pos` on, before them the
bits of the command byte, and before those the bus reset (41_search.md R137). -/
def State.transactionsLeft (s : State) : Nat :=
  match s.phase with
  | .idle => 0
  | .busRst => Config.longestSearch
  | .cmdBit => 3 * 64 + (8 - s.cmdIdx.toNat)
  | .rdId => 3 * (64 - s.pos.toNat) + 3
  | .rdCmp => 3 * (64 - s.pos.toNat) + 2
  | .wrDir => 3 * (64 - s.pos.toNat) + 1

section Ends
variable {s t : State} {v : Bool}

theorem State.transactionsLeft_eq_zero_iff (s : State) : s.transactionsLeft = 0 ↔ s.phase = .idle := by
  cases h : s.phase <;> simp [State.transactionsLeft, h]

/-- A completion with which the SEARCH goes on leaves exactly one transaction fewer. -/
theorem SearchGoesOn.transactionsLeft_succ (h : SearchGoesOn s v t) : t.transactionsLeft + 1 = s.transactionsLeft := by
  cases h with
  | presence hp => simp [State.transactionsLeft, hp]
  | lastCommandBit hp hi => simp [State.transactionsLeft, hp, hi]
  | commandBit hp hi => simp [State.transactionsLeft, hp]; omega
  | identifierBit hp | resolved hp => simp [State.transactionsLeft, hp]
  | stored hp hpos => simp [State.transactionsLeft, hp]; omega

/-- Every completion leaves fewer transactions, whether the SEARCH goes on or ends. -/
theorem State.transactionsLeft_engineStep (hb : s.phase ≠ .idle) :
    (s.engineStep v).transactionsLeft < s.transactionsLeft := by
  rcases s.engineStep_goesOn_or_ends v hb with h | h
  · exact Nat.lt_of_succ_le h.transactionsLeft_succ.le
  · rw [(State.transactionsLeft_eq_zero_iff _).2 h.phase_eq_idle]
    exact Nat.pos_of_ne_zero (mt (State.transactionsLeft_eq_zero_iff s).1 hb)

/-- The SEARCH that ended last has an outcome class, and FOUND says whether that is Found (10_state.md R29;
60_exceptions.md R170). -/
def State.Concluded (s : State) : Prop := ∃ o, s.outcome = some o ∧ (s.found = true ↔ o = .found)

/-- Each of the ways in which a SEARCH ends gives it an outcome and FOUND to match. -/
theorem SearchEnds.concluded (h : SearchEnds s v t) : t.Concluded := by
  cases h with
  | noPresence | anomaly | degenerate => exact ⟨_, rfl, iff_of_false nofun nofun⟩
  | found => exact ⟨_, rfl, iff_of_true rfl rfl⟩

/-- An Engine step leaves an idle block concluded if it found it so. -/
theorem State.concluded_engineStep (s : State) (v : Bool) (h : s.phase = .idle → s.Concluded) :
    (s.engineStep v).phase = .idle → (s.engineStep v).Concluded := by
  by_cases hidle : s.phase = .idle
  · rwa [State.engineStep_idle hidle]
  · rcases s.engineStep_goesOn_or_ends v hidle with hgo | hend
    · exact fun hp => absurd hp hgo.phase_ne_idle
    · exact fun _ => hend.concluded

/-- On a BitChannel that completes every transaction, waiting for as many as are left ends the SEARCH
(70_reset_and_hazards.md R216). -/
theorem System.phase_wait_of_transactionsLeft_le {β : Type} {ch : BitChannel β} {x : System β} {n : Nat}
    (hcomplete : ∀ b r, ∃ b' v, ch.answer b r = some (b', v)) (hleft : x.block.transactionsLeft ≤ n) :
    (x.wait ch n).block.phase = .idle := by
  induction n generalizing x with
  | zero => exact (State.transactionsLeft_eq_zero_iff _).1 (Nat.le_zero.1 hleft)
  | succ n ih =>
    by_cases hidle : x.block.phase = .idle
    · rwa [System.wait_of_idle hidle]
    · obtain ⟨r, hr⟩ := State.exists_request hidle
      obtain ⟨bus', v, ha⟩ := hcomplete x.bus r
      rw [System.wait_succ, System.transact_of_answer hr ha]
      exact ih (Nat.le_of_lt_succ ((State.transactionsLeft_engineStep hidle).trans_le hleft))

end Ends

/-- Settles O27: Exhausted at once, or a walk with at most 201 transactions left, each completion taking one away. -/
theorem searchEndsWhenTransactionsComplete : Obligations.SearchEndsWhenTransactionsComplete := by
  intro β ch x hidle hcomplete
  cases hterminal : x.block.terminal with
  | true =>
    rw [search_exhausted hidle hterminal]
    exact ⟨hidle, .exhausted, rfl, iff_of_false nofun nofun⟩
  | false =>
    obtain ⟨-, hblock⟩ := x.command_search_starts hidle hterminal
    have hleft : (x.command (encode .search)).block.transactionsLeft ≤ Config.longestSearch := by rw [hblock]; rfl
    have hend : (x.search ch).block.phase = .idle := System.phase_wait_of_transactionsLeft_le hcomplete hleft
    have hstart : (x.command (encode .search)).block.phase = .idle →
        (x.command (encode .search)).block.Concluded := by
      rw [hblock]; nofun
    exact ⟨hend, System.wait_keeps State.concluded_engineStep hstart Config.longestSearch hend⟩

end Sys2Proof.Machine

namespace Sys2Proof.Machine

/-! # What the hidden registers can reach -/

/-- Two blocks that no run can tell apart: they may differ only in hidden registers that are written before they are
read again (70_reset_and_hazards.md R203). -/
structure Indistinguishable (s t : State) : Prop where
  live : s.live = t.live
  cmderr : s.cmderr = t.cmderr
  lastRead : s.lastRead = t.lastRead
  inputs : s.inputs = t.inputs

/-- In an idle block no hidden register is live. -/
theorem State.live_of_idle {s : State} (h : s.phase = .idle) :
    s.live = { s.eraseHidden with cmderr := false, lastRead := none, inputs := [] } := by
  simp [State.live, State.eraseHidden, h, Phase.walking]

/-- What the hidden registers leave out is live or belongs to the host's side. -/
theorem State.eraseHidden_eq_live (s : State) :
    s.eraseHidden = { s.live.eraseHidden with cmderr := s.cmderr, lastRead := s.lastRead, inputs := s.inputs } :=
  rfl

/-- Host reads show nothing of the hidden registers but BUSY (10_state.md R32). -/
theorem State.readReg_eraseHidden (s : State) (idx : RegIndex) : s.eraseHidden.readReg idx = s.readReg idx := rfl

theorem State.live_startSearch {s : State} (h : s.phase = .idle) : s.startSearch.live = s.live.startSearch := by
  have hterminal : s.live.terminal = s.terminal := rfl
  rw [State.startSearch, State.startSearch, hterminal]
  split <;> simp [State.live, State.finish, h, Phase.walking]

/-- An accepted command acts on the live part of the block alone. -/
theorem live_acceptedEffect {s : State} (h : s.phase = .idle) (i : Instr) :
    (acceptedEffect i s).live = acceptedEffect i s.live := by
  cases i with
  | rstate => rfl
  | target f => rfl
  | search => exact State.live_startSearch h

section Indistinguishable
variable {s t : State}

/-- Idle blocks that differ in hidden registers only cannot be told apart. -/
theorem Indistinguishable.of_idle (hidle : s.phase = .idle) (h : s.eraseHidden = t.eraseHidden) :
    Indistinguishable s t where
  live := by
    have hidle' : t.phase = .idle := (congrArg State.phase h :).symm.trans hidle
    rw [State.live_of_idle hidle, State.live_of_idle hidle', h]
  cmderr := (congrArg State.cmderr h :)
  lastRead := (congrArg State.lastRead h :)
  inputs := (congrArg State.inputs h :)

theorem Indistinguishable.eraseHidden_eq (h : Indistinguishable s t) : s.eraseHidden = t.eraseHidden := by
  rw [s.eraseHidden_eq_live, t.eraseHidden_eq_live, h.live, h.cmderr, h.lastRead, h.inputs]

theorem Indistinguishable.phase_eq (h : Indistinguishable s t) : s.phase = t.phase :=
  (congrArg State.phase h.live :)

theorem Indistinguishable.withInputs (h : Indistinguishable s t) (inputs : List Input) :
    Indistinguishable (s.withInputs inputs) (t.withInputs inputs) :=
  ⟨h.live, h.cmderr, h.lastRead, rfl⟩

theorem Indistinguishable.rejectCommand (h : Indistinguishable s t) :
    Indistinguishable s.rejectCommand t.rejectCommand :=
  ⟨h.live, rfl, h.lastRead, h.inputs⟩

theorem Indistinguishable.hostRead (h : Indistinguishable s t) (idx : RegIndex) :
    Indistinguishable (s.hostRead idx) (t.hostRead idx) where
  live := h.live
  cmderr := h.cmderr
  lastRead := by
    rw [State.hostRead_lastRead, State.hostRead_lastRead, ← s.readReg_eraseHidden, h.eraseHidden_eq,
      t.readReg_eraseHidden]
  inputs := h.inputs

theorem Indistinguishable.powerOnReset (h : Indistinguishable s t) :
    Indistinguishable s.powerOnReset t.powerOnReset :=
  ⟨rfl, rfl, rfl, h.inputs⟩

/-- An operation that leaves the host's side keeps two blocks so if it does what is live in them. -/
theorem Indistinguishable.of_frame {f : State → State} (h : Indistinguishable s t) (hlive : (f s).live = (f t).live)
    (hframe : ∀ u, (f u).cmderr = u.cmderr ∧ (f u).lastRead = u.lastRead ∧ (f u).inputs = u.inputs) :
    Indistinguishable (f s) (f t) := by
  obtain ⟨hcmderr, hlastRead, hinputs⟩ := hframe s
  obtain ⟨hcmderr', hlastRead', hinputs'⟩ := hframe t
  exact ⟨hlive, by rw [hcmderr, hcmderr', h.cmderr], by rw [hlastRead, hlastRead', h.lastRead],
    by rw [hinputs, hinputs', h.inputs]⟩

theorem Indistinguishable.engineStep (h : Indistinguishable s t) (v : Bool) :
    Indistinguishable (s.engineStep v) (t.engineStep v) :=
  h.of_frame (State.live_engineStep_congr h.live v) (State.engineStep_frame · v)

theorem Indistinguishable.acceptedEffect (h : Indistinguishable s t) (hidle : s.phase = .idle) (i : Instr) :
    Indistinguishable (acceptedEffect i s) (acceptedEffect i t) := by
  have hidle' : t.phase = .idle := h.phase_eq.symm.trans hidle
  exact h.of_frame (by rw [live_acceptedEffect hidle, live_acceptedEffect hidle', h.live]) (acceptedEffect_frame i)

/-- Either both blocks accept a command, to the same effect on what is live, or both reject it (30_encoding.md R86,
R88). -/
theorem Indistinguishable.accept (h : Indistinguishable s t) (i : Instr) :
    Indistinguishable (s.accept (Machine.acceptedEffect i)) (t.accept (Machine.acceptedEffect i)) := by
  have hcleared : Indistinguishable { s with cmderr := false } { t with cmderr := false } :=
    ⟨h.live, rfl, h.lastRead, h.inputs⟩
  by_cases hidle : s.phase = .idle
  · rw [State.accept_of_idle hidle, State.accept_of_idle (h.phase_eq.symm.trans hidle)]
    exact hcleared.acceptedEffect hidle i
  · rw [State.accept_of_busy hidle, State.accept_of_busy (h.phase_eq ▸ hidle)]
    exact h.rejectCommand

/-- The two steps' results are next states that cannot be told apart. -/
def SameNext (p q : Host.Outcome State Fault Refusal) : Prop :=
  ∃ s t, p = .next s ∧ q = .next t ∧ Indistinguishable s t

theorem Indistinguishable.submit (h : Indistinguishable s t) (w : CommandWord) :
    SameNext (submit w s) (submit w t) := by
  cases hd : decode w with
  | malformed why => exact ⟨_, _, submit_of_malformed hd s, submit_of_malformed hd t, h.rejectCommand⟩
  | valid i =>
    rw [submit_of_decode hd, submit_of_decode hd, exec_eq_accept, exec_eq_accept]
    exact ⟨_, _, rfl, rfl, h.accept i⟩

theorem Indistinguishable.deliver (h : Indistinguishable s t) (i : Input) : SameNext (deliver i s) (deliver i t) := by
  cases i with
  | hostWrite idx value =>
    by_cases hcmd : idx = Config.cmdIndex
    · rw [Machine.deliver, Machine.deliver, hostWrite, hostWrite, if_pos hcmd, if_pos hcmd]
      exact h.submit _
    · rw [Machine.deliver, Machine.deliver, hostWrite, hostWrite, if_neg hcmd, if_neg hcmd]
      exact ⟨s, t, rfl, rfl, h⟩
  | hostRead idx => exact ⟨_, _, rfl, rfl, h.hostRead idx⟩
  | busCompletion v => exact ⟨_, _, rfl, rfl, h.engineStep v⟩
  | abandonedAnswer v => exact ⟨s, t, rfl, rfl, h⟩
  | powerOn => exact ⟨_, _, rfl, rfl, h.powerOnReset⟩

theorem Indistinguishable.step (h : Indistinguishable s t) : SameNext (step s) (step t) := by
  cases hinputs : s.inputs with
  | nil => exact ⟨s, t, step_of_no_input hinputs, step_of_no_input (h.inputs ▸ hinputs), h⟩
  | cons i rest =>
    rw [step_of_input hinputs, step_of_input (h.inputs ▸ hinputs)]
    exact (h.withInputs rest).deliver i

theorem Indistinguishable.run (h : Indistinguishable s t) (n : Nat) : SameNext (run n s) (run n t) := by
  induction n generalizing s t with
  | zero => exact ⟨s, t, rfl, rfl, h⟩
  | succ n ih =>
    obtain ⟨s', t', hs, ht, h'⟩ := h.step
    rw [Machine.run, Machine.run, hs, ht]
    exact ih h'

end Indistinguishable

/-- Settles O36: in idle blocks no hidden register is live, and every step keeps blocks that agree in all that is live
and on the host's side so. -/
theorem hiddenRegistersAreUnobservableFromIdle : Obligations.HiddenRegistersAreUnobservableFromIdle := by
  intro s t n hidle heq
  obtain ⟨s', t', hs, ht, h⟩ := (Indistinguishable.of_idle hidle heq).run n
  exact ⟨s', t', hs, ht, h.eraseHidden_eq⟩

end Sys2Proof.Machine

namespace Sys2Proof.Machine

/-! # What an idle block keeps -/

section Idle
variable {s t : State} {i : Input}

/-- An input that reaches an idle block is an accepted command or a power-on reset, or leaves all but CMDERR and the
record of the last host read (41_search.md R147). -/
theorem step_facing_of_idle (hidle : s.phase = .idle) (hstep : step (s.facing i) = .next t) :
    (∃ value c, i = .hostWrite Config.cmdIndex value ∧ decode (commandWordOf value) = .valid c ∧
      t = acceptedEffect c { s with cmderr := false }) ∨
    i = .powerOn ∨ ∃ cmderr lastRead, t = { s with cmderr := cmderr, lastRead := lastRead } := by
  rw [step_facing] at hstep
  rcases deliver_cases i s with ⟨value, hi, hd⟩ | ⟨-, hd⟩ | ⟨idx, -, hd⟩ | ⟨v, -, hd⟩ | ⟨hi, -⟩
  · rcases submit_cases (commandWordOf value) s with ⟨c, hc, -, hs⟩ | ⟨-, hs⟩
    · cases (hd.trans hs).symm.trans hstep
      exact .inl ⟨value, c, hi, hc, rfl⟩
    · cases (hd.trans hs).symm.trans hstep
      exact .inr (.inr ⟨true, s.lastRead, rfl⟩)
  · cases hd.symm.trans hstep
    exact .inr (.inr ⟨s.cmderr, s.lastRead, rfl⟩)
  · cases hd.symm.trans hstep
    exact .inr (.inr ⟨s.cmderr, some (idx, s.readReg idx), rfl⟩)
  · rw [State.engineStep_idle hidle] at hd
    cases hd.symm.trans hstep
    exact .inr (.inr ⟨s.cmderr, s.lastRead, rfl⟩)
  · exact .inr (.inl hi)

/-- Every accepted command ends FOUND = 1 (10_state.md R29). -/
theorem acceptedEffect_found (c : Instr) (s : State) : (acceptedEffect c s).found = false := by
  cases c with
  | rstate => rfl
  | target f => rfl
  | search => rcases s.startSearch_cases with ⟨-, h⟩ | ⟨-, h⟩ <;> rw [acceptedEffect, h]

end Idle

/-- Settles O33: of the commands an exhausted block accepts, SEARCH ends at once and leaves SearchState. -/
theorem exhaustedUntilCleared : Obligations.ExhaustedUntilCleared := by
  intro s t i hidle hterminal hstep
  rcases step_facing_of_idle hidle hstep with ⟨value, c, hi, hc, rfl⟩ | hi | ⟨cmderr, lastRead, rfl⟩
  · cases c with
    | rstate => exact .inl ⟨value, hi, .inl hc⟩
    | target f => exact .inl ⟨value, hi, .inr ⟨f, hc⟩⟩
    | search =>
      rw [acceptedEffect, State.startSearch, if_pos hterminal]
      exact .inr (.inr ⟨rfl, hterminal, rfl, rfl, rfl, .inr rfl⟩)
  · exact .inr (.inl hi)
  · exact .inr (.inr ⟨hidle, hterminal, rfl, rfl, rfl, .inl rfl⟩)

/-- Settles O37: a valid result stands in an idle block, where only an accepted command or a power-on reset reaches
FOUND and the candidate. -/
theorem resultStaysUntilACommand : Obligations.ResultStaysUntilACommand := by
  intro s t i hvalid hstep
  have hidle : s.phase = .idle := by
    have hboth : s.busy = false ∧ s.found = true := by simpa [State.resultValid] using hvalid
    exact (State.busy_eq_false_iff s).1 hboth.1
  rcases step_facing_of_idle hidle hstep with ⟨value, c, hi, hc, rfl⟩ | hi | ⟨cmderr, lastRead, rfl⟩
  · exact .inl ⟨value, c, hi, hc, acceptedEffect_found c _⟩
  · exact .inr (.inl hi)
  · exact .inr (.inr ⟨hvalid, rfl⟩)

/-! # Power-on reset -/

/-- Settles O34: the fields of the reset state. -/
theorem resetStateIsCleared : Obligations.ResetStateIsCleared :=
  ⟨rfl, rfl, rfl, rfl, rfl, rfl, rfl, rfl⟩

/-- Settles O35: the reset state in one step, and answers that reach no running SEARCH. -/
theorem powerOnResetAbandonsTheSearch : Obligations.PowerOnResetAbandonsTheSearch := by
  refine fun s => ⟨⟨s.powerOnReset, rfl, ⟨rfl, rfl, rfl, rfl⟩, rfl, rfl, rfl, rfl, rfl⟩, fun _ => rfl,
    fun v hidle => ?_⟩
  rw [step_facing_busCompletion, State.engineStep_idle hidle]

end Sys2Proof.Machine
